-- ==== Sys2Proof/Word.lean ====
section
/-! DEFINITION. The words of SSMUX and the small data types its state is made of (spec/10_state.md, spec/30_encoding.md, spec/43_host_reference.md). -/

namespace Sys2Proof

/-- A ROM entry, a segment byte or a select byte (00_scope.md R5: SEG_W = SEL_W = 8). -/
abbrev Byte := BitVec 8

/-- The serial word of one position, segment byte in bits 15:8, select byte in bits 7:0 (30_encoding.md R86). -/
abbrev SerialWord := BitVec 16

/-- A digit code (30_encoding.md R80): 0 to 9 the digits, 15 Blank, 10 to 14 undefined digits. -/
abbrev DigitCode := BitVec 4

/-- A digit position 0 to 3 (10_state.md R24, POS). -/
abbrev Position := BitVec 2

/-- The value of the five input lines, and of the frame register Q (10_state.md R20, R33): four digit codes and the
three decimal-point flags, flag `p` belonging to position `p` (30_encoding.md R81). -/
structure Quad where
  d0 : DigitCode
  d1 : DigitCode
  d2 : DigitCode
  d3 : DigitCode
  dp : BitVec 3
deriving DecidableEq, Repr, Inhabited

/-- The six legal values of PH (10_state.md R24, 30_encoding.md R88). The reserved codes 6 and 7 cannot be held (R95). -/
inductive Phase
  | ll | cl | ds | ch | lh | hd
deriving DecidableEq, Repr

/-- The three maps of opcode_table.json (30_encoding.md R89, R93): micro-operations matched on PH, SEGROM rows matched on
the digit code, SELROM rows matched on POS. -/
inductive Format
  | uop | segrom | selrom
deriving DecidableEq, Repr

/-- The host's DisplayMode (43_host_reference.md R170). -/
inductive DisplayMode
  | time | voltage
deriving DecidableEq, Repr

/-- A VoltageSample as an exact non-negative number of volts, `num / (denPred + 1)` (43_host_reference.md R180). -/
structure Volts where
  num : Nat
  denPred : Nat
deriving DecidableEq, Repr, Inhabited

/-- Where the host's main loop stands in the formatter pass of this frame (43_host_reference.md R178, R182). Handlers can preempt it
between any two of these points (R184). -/
inductive Pass
  /-- no pass has begun -/
  | idle
  /-- DisplayMode has been read -/
  | mode (m : DisplayMode)
  /-- the sample or ElapsedSeconds has been read and the digits are computed; the quad is not yet on the bus -/
  | quad (q : Quad)
  /-- the quad is on QUAD_IN and waits for the capture -/
  | done
deriving DecidableEq, Repr

/-- One thing the outside world does between two steps (00_scope.md R8; 43_host_reference.md). -/
inductive Event
  /-- any host puts a value on the five input lines, all 19 bits at once (10_state.md R33) -/
  | drive (q : Quad)
  /-- the reset source sets the rst line (10_state.md R34) -/
  | setRst (b : Bool)
  /-- the tick handler has read ElapsedSeconds and not yet written it (43_host_reference.md R175); until it has, the main loop waits
  (R184) -/
  | tickRead
  /-- the tick handler writes the incremented value back, having read it just now if no read is pending (R171, R175) -/
  | tick
  /-- falling edge of the reset button (R172) -/
  | resetButton
  /-- falling edge of the mode button (R173) -/
  | modeEnter
  /-- rising edge of the mode button (R174) -/
  | modeExit
  /-- the main loop reads DisplayMode (R178, R184) -/
  | modeRead
  /-- the main loop reads the sample or ElapsedSeconds, as the mode it has read says, and computes the digits (R176, R177); `v` is what
  the live sample read gives if the pass is in voltage mode (R180: a free value at each read) -/
  | valueRead (v : Volts)
  /-- the main loop does what is left of the pass and puts the quad on QUAD_IN (R176, R177, R179, R182); `v` as in `valueRead` -/
  | present (v : Volts)
  /-- the host's main loop starts; from then on it runs forever (R182, 70_reset_and_hazards.md R234) -/
  | loopStart
deriving DecidableEq, Repr

end Sys2Proof
end

