-- ==== Sys2Proof/Machine/Flags.lean ====
section
/-! DEFINITION. The decimal-point flags and the decimal-point modifier (spec/10_state.md R23, 40_segment_encoder.md R113, 41_digit_select.md R126). SSMUX has no condition codes (R23). -/

namespace Sys2Proof.Machine

/-- DPF(q, p): the decimal-point flag of position p; position 3 has none (41_digit_select.md R126). -/
def dpf (q : Quad) (p : Position) : Bool := if p = 3#2 then false else q.dp.getLsbD p.toNat

/-- DPMOD(b, dp): b AND 0x7F when the flag is set (40_segment_encoder.md R113; bit 7, 90_conflicts.md C1). -/
def dpmod (b : Byte) (dp : Bool) : Byte := if dp then b &&& 0x7F else b

end Sys2Proof.Machine
end

