-- ==== Sys2Proof/Machine/Operands.lean ====
section
/-! DEFINITION. The two ROMs and the assembly of the serial word from the captured quad (spec/20_memory.md R51 to R53, 30_encoding.md R92, 40_segment_encoder.md R100, 41_digit_select.md R120, R125). -/

namespace Sys2Proof.Machine

/-- SEGROM contents, addresses 0 to 15 (20_memory.md R51). -/
def segRom : Vector Byte 16 :=
  #v[0xC0, 0xF9, 0xA4, 0xB0, 0x99, 0x92, 0x82, 0xF8, 0x80, 0x90, 0xFF, 0xFF, 0xFF, 0xFF, 0xFF, 0xFF]

/-- SELROM contents, addresses 0 to 3 (20_memory.md R52; the values, not the words "active-low", 90_conflicts.md C2). -/
def selRom : Vector Byte 4 := #v[0xF1, 0xF2, 0xF4, 0xF8]

/-- MemRead(SEGROM, a, 1): pure, every address in range (20_memory.md R53). -/
def readSegRom (a : DigitCode) : Byte := segRom.get a.toFin

/-- MemRead(SELROM, a, 1): pure, every address in range (20_memory.md R52, R53). -/
def readSelRom (a : Position) : Byte := selRom.get a.toFin

/-- ENC(c, dp) (40_segment_encoder.md R100). -/
def enc (c : DigitCode) (dp : Bool) : Byte := dpmod (readSegRom c) dp

/-- SEL(p) (41_digit_select.md R120). -/
def sel (p : Position) : Byte := readSelRom p

/-- q.D[p], the digit shown at position p (10_state.md R20). -/
def digit (q : Quad) (p : Position) : DigitCode :=
  if p = 0#2 then q.d0 else if p = 1#2 then q.d1 else if p = 2#2 then q.d2 else q.d3

/-- The word of a segment byte and a select byte: segment byte in bits 15:8 (30_encoding.md R86). -/
def serialWord (segByte selByte : Byte) : SerialWord := segByte ++ selByte

/-- WORD(q, p) (41_digit_select.md R125). -/
def word (q : Quad) (p : Position) : SerialWord := serialWord (enc (digit q p) (dpf q p)) (sel p)

/-- The word sent when SEGROM delivers its row `c`, everything else as WORD has it (30_encoding.md R92; log 6). -/
def wordWithSegRow (c : DigitCode) (q : Quad) (p : Position) : SerialWord := serialWord (enc c (dpf q p)) (sel p)

/-- The word sent when SELROM delivers its row `r`, everything else as WORD has it (30_encoding.md R92; log 6). -/
def wordWithSelRow (r : Position) (q : Quad) (p : Position) : SerialWord := serialWord (enc (digit q p) (dpf q p)) (sel r)

end Sys2Proof.Machine
end

