-- ==== Sys2Proof/Config.lean ====
section
/-! DEFINITION. The parameters of SSMUX (spec/00_scope.md R5) and the values the spec leaves free. An opaque constant has no body: nothing can be proved about its value. -/

namespace Sys2Proof.Config

/-- HOLD_CYCLES - 1; uninterpreted, so that HOLD_CYCLES is any integer >= 1 (00_scope.md R5, D6; log 1). -/
opaque holdCyclesPred : Nat

/-- HOLD_CYCLES: how many HD steps a position has (00_scope.md R5). OPEN, integer >= 1. -/
def holdCycles : Nat := holdCyclesPred + 1

/-- HOLD_W: the smallest w >= 1 with 2^w >= HOLD_CYCLES (00_scope.md R5). -/
def holdW : Nat := max 1 (Nat.clog 2 holdCycles)

/-- T_POS, the steps of one position (42_sequencer.md R149). -/
def tPos : Nat := 50 + holdCycles

/-- T_FRAME, the steps of one frame (42_sequencer.md R149). -/
def tFrame : Nat := 4 * tPos

/-- What Q holds after a reset step: unspecified (10_state.md R22, 70_reset_and_hazards.md R230, U1; log 3). A fresh value for
each reset step, by the counter State.draws. -/
opaque resetQuad : Nat → Quad

/-- ROUND at a tie (D19, U7; log 10): whether round takes k + 1/2 to k + 1 (true) or to k (false). -/
opaque roundTieUp : Nat → Bool

/-- The analog samples the host's main loop reads, one fresh value for each pass (43_host_reference.md R180, U13; log 2), by the counter
State.samples. -/
opaque rawSample : Nat → Volts

/-- BLANK, the canonical code of "blank" (00_scope.md R5, 30_encoding.md R80). -/
def blank : DigitCode := 15

/-- SECONDS_MOD, the modulus of ElapsedSeconds (00_scope.md R5, 43_host_reference.md R170). -/
def secondsMod : Nat := 6000

/-- VAL_MAX, the clamp of the centivolt value (00_scope.md R5, 43_host_reference.md R176). -/
def valMax : Nat := 330

end Sys2Proof.Config
end

