-- ==== Sys2Proof/Machine/State.lean ====
section
/-! DEFINITION. The state of SSMUX and of what its pins and inputs touch (spec/10_state.md; 20_memory.md R63; 43_host_reference.md R170), the reasons a step can stop, and the state after reset (70_reset_and_hazards.md R230). -/

namespace Sys2Proof.Machine

/-- Everything the spec gives the machine, and three fields of the model's own (schedule, draws, samples). -/
structure State where
  /-- POS, the position being rendered (10_state.md R24) -/
  pos : Position
  /-- PH, which micro-operation the next step performs (R24) -/
  ph : Phase
  /-- BITC, the index in the serial word of the bit the next DS step sends (R24) -/
  bitc : BitVec 4
  /-- HOLDC, the remaining HD steps (R31); HOLD_W bits (00_scope.md R5) -/
  holdc : BitVec Config.holdW
  /-- Q, the frame register (R20) -/
  q : Quad
  /-- LATCH, the pin `latch` (R28) -/
  latch : Bool
  /-- SCLK, the pin `sclk` (R29) -/
  sclk : Bool
  /-- DATA, the pin `sdata` (R30) -/
  data : Bool
  /-- the level of the input `rst` for the next step (R34) -/
  rst : Bool
  /-- the value of the input lines for the next step, QUAD_IN (R33) -/
  quadIn : Quad
  /-- ESR, the shift stage of the display chain (20_memory.md R63) -/
  esr : SerialWord
  /-- EOUT, the output stage of the display chain (20_memory.md R63) -/
  eout : SerialWord
  /-- ElapsedSeconds, a cell of the host (43_host_reference.md R170) -/
  elapsed : Nat
  /-- DisplayMode, a cell of the host (43_host_reference.md R170) -/
  mode : DisplayMode
  /-- what a tick handler has read and not yet written back (43_host_reference.md R175, U9) -/
  tickSeen : Option Nat
  /-- whether the host's main loop runs, and so makes one formatter pass before every capture (43_host_reference.md R182; log 2) -/
  loop : Bool
  /-- where the main loop stands in the formatter pass (43_host_reference.md R178, R184) -/
  pass : Pass
  /-- MODEL'S OWN: what the outside world does after each of the coming steps, before the next (log 7) -/
  schedule : List (List Event)
  /-- MODEL'S OWN: how many free values have been drawn for Q (log 3) -/
  draws : Nat
  /-- MODEL'S OWN: how many samples the main loop has read (log 2) -/
  samples : Nat
deriving DecidableEq, Repr

/-- SSMUX raises nothing: the list of exception causes is empty (60_exceptions.md R200). No constructor, so nothing can raise one. -/
inductive Fault where
deriving DecidableEq, Repr

/-- Why a step has no meaning in the model. -/
inductive Refusal where
  /-- raised only by an arm of exec whose instruction has no meaning yet (no arm is in that case); safe: the model stops -/
  | notModelled (mnemonic : String)
deriving DecidableEq, Repr

/-- RESET_STATE (70_reset_and_hazards.md R230) with the host's cells as initialised (R233) and no reset asserted: the state in
which step t = 0 is about to be taken (R231). The spec gives no value for Q (log 3), ESR and EOUT (log 4) and the input lines
(log 5): zero, the model's choice; nor for the start of the main loop: not yet started, no pass begun (log 2). -/
def State.reset : State where
  pos := 0#2
  ph := .ll
  bitc := 0#4
  holdc := 0#Config.holdW
  q := { d0 := 0, d1 := 0, d2 := 0, d3 := 0, dp := 0 }
  latch := false
  sclk := false
  data := false
  rst := false
  quadIn := { d0 := 0, d1 := 0, d2 := 0, d3 := 0, dp := 0 }
  esr := 0
  eout := 0
  elapsed := 0
  mode := .time
  tickSeen := none
  loop := false
  pass := .idle
  schedule := []
  draws := 0
  samples := 0

end Sys2Proof.Machine
end

