-- ==== Sys2Proof/Machine/Ops.lean ====
section
/-! DEFINITION. The shared operations of the sequencer: pin writes, the capture, the counters, sending one bit, and the reset step (spec/42_sequencer.md, 70_reset_and_hazards.md). The reset step stands where another machine takes an exception: SSMUX has none, and reset saves nothing and returns to nothing (60_exceptions.md R205, R206). -/

namespace Sys2Proof.Machine

/-- The next state of a meaning that cannot fail (60_exceptions.md R200). -/
abbrev Result := Host.Outcome State Fault Refusal

/-- LATCH <- b (10_state.md R28). -/
def State.setLatch (s : State) (b : Bool) : State := { s with latch := b }

/-- SCLK <- b (10_state.md R29). -/
def State.setSclk (s : State) (b : Bool) : State := { s with sclk := b }

/-- DATA <- b (10_state.md R30). -/
def State.setData (s : State) (b : Bool) : State := { s with data := b }

/-- PH <- p (10_state.md R24). -/
def State.setPhase (s : State) (p : Phase) : State := { s with ph := p }

/-- BITC <- n (10_state.md R24). -/
def State.setBitc (s : State) (n : BitVec 4) : State := { s with bitc := n }

/-- HOLDC <- n (10_state.md R31). -/
def State.setHoldc (s : State) (n : BitVec Config.holdW) : State := { s with holdc := n }

/-- HOLD_CYCLES - 1 as a value of HOLDC, in which it fits (00_scope.md R5, 42_sequencer.md R145). -/
def holdLoad : BitVec Config.holdW := BitVec.ofNat Config.holdW (Config.holdCycles - 1)

/-- HOLDC - 1 where HOLDC is not 0 (42_sequencer.md R146, R155); it stays at 0. -/
def countDown (c : BitVec Config.holdW) : BitVec Config.holdW :=
  BitVec.ofNatLT (c.toNat - 1) (Nat.lt_of_le_of_lt (Nat.sub_le _ _) c.isLt)

/-- POS <- (POS + 1) mod 4; POS has 2 bits, so the sum wraps by itself (42_sequencer.md R146, R155). -/
def State.nextPos (s : State) : State := { s with pos := s.pos + 1#2 }

/-- CAPTURE: in the LL step of position 0 all 19 bits of QUAD_IN go to Q; at the other positions the inputs are not looked at
(42_sequencer.md R147). -/
def State.capture (s : State) : State := if s.pos = 0#2 then { s with q := s.quadIn } else s

/-- The end of a bit: the next bit of the word, or the latch when the word is done (42_sequencer.md R144). -/
def State.endBit (s : State) : State :=
  if s.bitc = 0#4 then s.setPhase .lh else (s.setBitc (s.bitc - 1#4)).setPhase .cl

/-- One hold step: the count goes down, or the position ends (42_sequencer.md R146). -/
def State.holdStep (s : State) : State :=
  if s.holdc = 0#Config.holdW then s.nextPos.setPhase .ll else (s.setHoldc (countDown s.holdc)).setPhase .hd

/-- The DS step for a given serial word: bit BITC of it goes to DATA (42_sequencer.md R143). -/
def State.sendBit (s : State) (w : SerialWord) : State := (s.setData (w.getLsbD s.bitc.toNat)).setPhase .ch

/-- The reset step (70_reset_and_hazards.md R230, R231): every element of the block at its reset value, Q unspecified (a fresh
free value, log 3); the display chain, the inputs and the host are not reset by it (R232, 43_host_reference.md R172). -/
def State.resetBlock (s : State) : State :=
  { s with
    pos := 0#2, ph := .ll, bitc := 0#4, holdc := 0#Config.holdW, latch := false, sclk := false, data := false,
    q := Config.resetQuad s.draws, draws := s.draws + 1 }

end Sys2Proof.Machine
end

