-- ==== Sys2Proof/Machine/Chain.lean ====
section
/-! DEFINITION. The display chain at the far end of the pins: shift, commit, what is lit, and reading a committed word back (spec/20_memory.md R63 to R67; 41_digit_select.md R129). -/

namespace Sys2Proof.Machine

/-- Shift: when SCLK has risen in the step from `before` to `after`, ESR takes in the level of DATA (20_memory.md R64). -/
def chainShift (before after : State) : SerialWord :=
  if !before.sclk && after.sclk then after.esr <<< 1 ||| BitVec.setWidth 16 (BitVec.ofBool after.data) else after.esr

/-- Commit: when LATCH has risen in the step, EOUT takes what ESR held before the step (20_memory.md R65). -/
def chainCommit (before after : State) : SerialWord :=
  if !before.latch && after.latch then before.esr else after.eout

/-- The chain's reaction to the pins of one step of the block (20_memory.md R64, R65): it looks at the pins before and after. -/
def chainReact (before after : State) : State :=
  { after with esr := chainShift before after, eout := chainCommit before after }

/-- Digit module p is powered exactly when EOUT[p] = 1 (20_memory.md R67). -/
def modulePowered (eout : SerialWord) (p : Position) : Bool := eout.getLsbD p.toNat

/-- Segment bit b of the selected module is lit exactly when EOUT[8+b] = 0 (20_memory.md R67). -/
def segmentLit (eout : SerialWord) (b : BitVec 3) : Bool := !eout.getLsbD (8 + b.toNat)

/-- What an observer reads of a digit code: the digit, or blank for the six codes 10 to 15 (40_segment_encoder.md R116). -/
def digitClass (c : DigitCode) : Option Nat := if c.toNat < 10 then some c.toNat else none

/-- A committed word read back: the position, the point, the digit class (41_digit_select.md R129). -/
structure Reading where
  position : Position
  point : Bool
  digit : Option Nat
deriving DecidableEq, Repr

/-- The position, as the index of the single 1 in w[3:0]; none when there is not exactly one (41_digit_select.md R129). -/
def readPosition (w : SerialWord) : Option Position :=
  [0, 1, 2, 3].find? (fun p : Position => w.extractLsb' 0 4 = (1 : BitVec 4) <<< p.toNat)

/-- The digit code with the smallest number whose byte agrees with w[14:8]; none when no entry of SEGROM does. -/
def readCode (w : SerialWord) : Option DigitCode :=
  [0, 1, 2, 3, 4, 5, 6, 7, 8, 9, 15].find? (fun c => (readSegRom c).extractLsb' 0 7 = w.extractLsb' 8 7)

/-- Reading a committed word back (41_digit_select.md R129): the point is NOT w[15]. -/
def readWord (w : SerialWord) : Option Reading :=
  match readPosition w, readCode w with
  | some p, some c => some ⟨p, !w.getLsbD 15, digitClass c⟩
  | _, _ => none

end Sys2Proof.Machine
end

