-- ==== Sys2Proof/Machine/SegmentRom.lean ====
section
/-! DEFINITION. The sixteen SEGROM rows. A ROM read has no time of its own: it is evaluated inside the DS step (spec/20_memory.md R53, R156; 40_segment_encoder.md R100), so a row is the DS step in which SEGROM delivers that row; its byte ENC(row, DPF(Q, POS)) stands in bits 15:8 of the word whose bit BITC is sent (log 6). -/

namespace Sys2Proof.Machine

/-- SEG0: SEGROM address 0 (40_segment_encoder.md R101). -/
def execSeg0 (s : State) : Result := .next (s.sendBit (wordWithSegRow 0 s.q s.pos))

/-- SEG1: SEGROM address 1 (40_segment_encoder.md R102). -/
def execSeg1 (s : State) : Result := .next (s.sendBit (wordWithSegRow 1 s.q s.pos))

/-- SEG2: SEGROM address 2 (40_segment_encoder.md R103). -/
def execSeg2 (s : State) : Result := .next (s.sendBit (wordWithSegRow 2 s.q s.pos))

/-- SEG3: SEGROM address 3 (40_segment_encoder.md R104). -/
def execSeg3 (s : State) : Result := .next (s.sendBit (wordWithSegRow 3 s.q s.pos))

/-- SEG4: SEGROM address 4 (40_segment_encoder.md R105). -/
def execSeg4 (s : State) : Result := .next (s.sendBit (wordWithSegRow 4 s.q s.pos))

/-- SEG5: SEGROM address 5 (40_segment_encoder.md R106). -/
def execSeg5 (s : State) : Result := .next (s.sendBit (wordWithSegRow 5 s.q s.pos))

/-- SEG6: SEGROM address 6 (40_segment_encoder.md R107). -/
def execSeg6 (s : State) : Result := .next (s.sendBit (wordWithSegRow 6 s.q s.pos))

/-- SEG7: SEGROM address 7 (40_segment_encoder.md R108). -/
def execSeg7 (s : State) : Result := .next (s.sendBit (wordWithSegRow 7 s.q s.pos))

/-- SEG8: SEGROM address 8 (40_segment_encoder.md R109). -/
def execSeg8 (s : State) : Result := .next (s.sendBit (wordWithSegRow 8 s.q s.pos))

/-- SEG9: SEGROM address 9 (40_segment_encoder.md R110). -/
def execSeg9 (s : State) : Result := .next (s.sendBit (wordWithSegRow 9 s.q s.pos))

/-- SEGU10: SEGROM address 10 (40_segment_encoder.md R112). -/
def execSegU10 (s : State) : Result := .next (s.sendBit (wordWithSegRow 10 s.q s.pos))

/-- SEGU11: SEGROM address 11 (40_segment_encoder.md R112). -/
def execSegU11 (s : State) : Result := .next (s.sendBit (wordWithSegRow 11 s.q s.pos))

/-- SEGU12: SEGROM address 12 (40_segment_encoder.md R112). -/
def execSegU12 (s : State) : Result := .next (s.sendBit (wordWithSegRow 12 s.q s.pos))

/-- SEGU13: SEGROM address 13 (40_segment_encoder.md R112). -/
def execSegU13 (s : State) : Result := .next (s.sendBit (wordWithSegRow 13 s.q s.pos))

/-- SEGU14: SEGROM address 14 (40_segment_encoder.md R112). -/
def execSegU14 (s : State) : Result := .next (s.sendBit (wordWithSegRow 14 s.q s.pos))

/-- SEGBLANK: SEGROM address 15 (40_segment_encoder.md R111). -/
def execSegBlank (s : State) : Result := .next (s.sendBit (wordWithSegRow 15 s.q s.pos))

end Sys2Proof.Machine
end

