-- ==== Sys2Proof/Machine/SelectRom.lean ====
section
/-! DEFINITION. The four SELROM rows. As with SEGROM, a row is the DS step in which SELROM delivers that row; its byte stands in bits 7:0 of the word whose bit BITC is sent (spec/20_memory.md R52, R53, R156; 41_digit_select.md R120; log 6). -/

namespace Sys2Proof.Machine

/-- SEL0: SELROM address 0 (41_digit_select.md R121). -/
def execSel0 (s : State) : Result := .next (s.sendBit (wordWithSelRow 0 s.q s.pos))

/-- SEL1: SELROM address 1 (41_digit_select.md R122). -/
def execSel1 (s : State) : Result := .next (s.sendBit (wordWithSelRow 1 s.q s.pos))

/-- SEL2: SELROM address 2 (41_digit_select.md R123). -/
def execSel2 (s : State) : Result := .next (s.sendBit (wordWithSelRow 2 s.q s.pos))

/-- SEL3: SELROM address 3 (41_digit_select.md R124). -/
def execSel3 (s : State) : Result := .next (s.sendBit (wordWithSelRow 3 s.q s.pos))

end Sys2Proof.Machine
end

