-- ==== Sys2Proof/Machine/Sequencer.lean ====
section
/-! DEFINITION. The six micro-operations (spec/42_sequencer.md R141 to R146). -/

namespace Sys2Proof.Machine

/-- LL, latch low (42_sequencer.md R141). -/
def execLl (s : State) : Result := .next (((s.setLatch false).setBitc 15#4).capture.setPhase .cl)

/-- CL, clock low (42_sequencer.md R142). -/
def execCl (s : State) : Result := .next ((s.setSclk false).setPhase .ds)

/-- DS, data set: DATA <- WORD(Q, POS)[BITC] (42_sequencer.md R143). -/
def execDs (s : State) : Result := .next (s.sendBit (word s.q s.pos))

/-- CH, clock high (42_sequencer.md R144). -/
def execCh (s : State) : Result := .next (s.setSclk true).endBit

/-- LH, latch high (42_sequencer.md R145). -/
def execLh (s : State) : Result := .next (((s.setLatch true).setHoldc holdLoad).setPhase .hd)

/-- HD, hold (42_sequencer.md R146). -/
def execHd (s : State) : Result := .next s.holdStep

end Sys2Proof.Machine
end

