-- ==== Sys2Proof/Syntax.lean ====
section
/-! DEFINITION. The 26 rows of spec/opcode_table.json (30_encoding.md R89): six micro-operations, sixteen SEGROM rows, four SELROM rows. No row has an operand field (R87). -/

namespace Sys2Proof

/-- One constructor per row of opcode_table.json. -/
inductive Instr
  /-- latch low, PH = 0 (42_sequencer.md R141) -/
  | ll
  /-- clock low, PH = 1 (R142) -/
  | cl
  /-- data set, PH = 2 (R143) -/
  | ds
  /-- clock high, PH = 3 (R144) -/
  | ch
  /-- latch high, PH = 4 (R145) -/
  | lh
  /-- hold, PH = 5 (R146) -/
  | hd
  /-- SEGROM address 0 (40_segment_encoder.md R101) -/
  | seg0
  /-- SEGROM address 1 (R102) -/
  | seg1
  /-- SEGROM address 2 (R103) -/
  | seg2
  /-- SEGROM address 3 (R104) -/
  | seg3
  /-- SEGROM address 4 (R105) -/
  | seg4
  /-- SEGROM address 5 (R106) -/
  | seg5
  /-- SEGROM address 6 (R107) -/
  | seg6
  /-- SEGROM address 7 (R108) -/
  | seg7
  /-- SEGROM address 8 (R109) -/
  | seg8
  /-- SEGROM address 9 (R110) -/
  | seg9
  /-- SEGROM address 10, an undefined digit (R112) -/
  | segU10
  /-- SEGROM address 11, an undefined digit (R112) -/
  | segU11
  /-- SEGROM address 12, an undefined digit (R112) -/
  | segU12
  /-- SEGROM address 13, an undefined digit (R112) -/
  | segU13
  /-- SEGROM address 14, an undefined digit (R112) -/
  | segU14
  /-- SEGROM address 15, Blank (R111) -/
  | segBlank
  /-- SELROM address 0 (41_digit_select.md R121) -/
  | sel0
  /-- SELROM address 1 (R122) -/
  | sel1
  /-- SELROM address 2 (R123) -/
  | sel2
  /-- SELROM address 3 (R124) -/
  | sel3
deriving DecidableEq, Repr

end Sys2Proof
end

