-- ==== Sys2Proof/Machine/Dispatch.lean ====
section
/-! DEFINITION. The dispatch: one arm per row of spec/opcode_table.json, each one call of its meaning. -/

namespace Sys2Proof.Machine

def exec (i : Instr) (s : State) : Host.Outcome State Fault Refusal :=
  match i with
  | .ll => Sys2Proof.Machine.execLl s
  | .cl => Sys2Proof.Machine.execCl s
  | .ds => Sys2Proof.Machine.execDs s
  | .ch => Sys2Proof.Machine.execCh s
  | .lh => Sys2Proof.Machine.execLh s
  | .hd => Sys2Proof.Machine.execHd s
  | .seg0 => Sys2Proof.Machine.execSeg0 s
  | .seg1 => Sys2Proof.Machine.execSeg1 s
  | .seg2 => Sys2Proof.Machine.execSeg2 s
  | .seg3 => Sys2Proof.Machine.execSeg3 s
  | .seg4 => Sys2Proof.Machine.execSeg4 s
  | .seg5 => Sys2Proof.Machine.execSeg5 s
  | .seg6 => Sys2Proof.Machine.execSeg6 s
  | .seg7 => Sys2Proof.Machine.execSeg7 s
  | .seg8 => Sys2Proof.Machine.execSeg8 s
  | .seg9 => Sys2Proof.Machine.execSeg9 s
  | .segU10 => Sys2Proof.Machine.execSegU10 s
  | .segU11 => Sys2Proof.Machine.execSegU11 s
  | .segU12 => Sys2Proof.Machine.execSegU12 s
  | .segU13 => Sys2Proof.Machine.execSegU13 s
  | .segU14 => Sys2Proof.Machine.execSegU14 s
  | .segBlank => Sys2Proof.Machine.execSegBlank s
  | .sel0 => Sys2Proof.Machine.execSel0 s
  | .sel1 => Sys2Proof.Machine.execSel1 s
  | .sel2 => Sys2Proof.Machine.execSel2 s
  | .sel3 => Sys2Proof.Machine.execSel3 s

end Sys2Proof.Machine
end

