-- ==== Sys2Proof/WellFormed.lean ====
section
/-! DEFINITION. What is well formed: a row's code in its format, an instruction, an event of the outside world, an input schedule. -/

namespace Sys2Proof

/-- The codes a format uses: PH codes 0 to 5 (6 and 7 are reserved, 30_encoding.md R95), all sixteen digit codes (R94), all
four positions (R96). -/
def Format.codeLegal : Format → Nat → Bool
  | .uop, c => c < 6
  | .segrom, c => c < 16
  | .selrom, c => c < 4

/-- Rows carry no operand (30_encoding.md R87), so there is nothing in a term of Instr that could be ill formed. -/
def Instr.wellFormed (_ : Instr) : Bool := true

/-- The analog collaborator gives a reading in [0, 3.3] volts (43_host_reference.md R180): num / den <= 33 / 10. -/
def Volts.wellFormed (v : Volts) : Bool := 10 * v.num ≤ 33 * (v.denPred + 1)

/-- An event is well formed when the sample it carries, if any, is in range. Every value of QUAD_IN is legal (10_state.md R33). -/
def Event.wellFormed : Event → Bool
  | .drive _ => true
  | .setRst _ => true
  | .tickRead => true
  | .tick => true
  | .resetButton => true
  | .modeEnter => true
  | .modeExit => true
  | .modeRead => true
  | .valueRead v => v.wellFormed
  | .present v => v.wellFormed
  | .loopStart => true

/-- An input schedule is a program for SSMUX (95_test_vectors.md section 3). -/
def scheduleWellFormed (l : List (List Event)) : Bool := l.all (·.all Event.wellFormed)

end Sys2Proof
end

