-- ==== Sys2Proof/Decode.lean ====
section
/-! DEFINITION. Decoding and encoding: the three maps of opcode_table.json, the phase code, the digit code and the packing of QUAD_IN (spec/30_encoding.md). -/

namespace Sys2Proof

/-- The width of a format's matched value (30_encoding.md R93): PH 3 bits, digit code 4 bits, POS 2 bits. -/
def Format.width : Format → Nat
  | .uop => 3
  | .segrom => 4
  | .selrom => 2

/-- One row of opcode_table.json as R93 reads it: it applies to a value v of its format when (v AND mask) = pattern. -/
structure Row where
  format : Format
  pattern : Nat
  mask : Nat
  instr : Instr
deriving DecidableEq, Repr

/-- The UOP rows (30_encoding.md R88). -/
def uopRows : List Row :=
  [⟨.uop, 0x0, 0x7, .ll⟩, ⟨.uop, 0x1, 0x7, .cl⟩, ⟨.uop, 0x2, 0x7, .ds⟩,
   ⟨.uop, 0x3, 0x7, .ch⟩, ⟨.uop, 0x4, 0x7, .lh⟩, ⟨.uop, 0x5, 0x7, .hd⟩]

/-- The SEGROM rows (20_memory.md R51). -/
def segromRows : List Row :=
  [⟨.segrom, 0x0, 0xF, .seg0⟩, ⟨.segrom, 0x1, 0xF, .seg1⟩, ⟨.segrom, 0x2, 0xF, .seg2⟩, ⟨.segrom, 0x3, 0xF, .seg3⟩,
   ⟨.segrom, 0x4, 0xF, .seg4⟩, ⟨.segrom, 0x5, 0xF, .seg5⟩, ⟨.segrom, 0x6, 0xF, .seg6⟩, ⟨.segrom, 0x7, 0xF, .seg7⟩,
   ⟨.segrom, 0x8, 0xF, .seg8⟩, ⟨.segrom, 0x9, 0xF, .seg9⟩, ⟨.segrom, 0xA, 0xF, .segU10⟩, ⟨.segrom, 0xB, 0xF, .segU11⟩,
   ⟨.segrom, 0xC, 0xF, .segU12⟩, ⟨.segrom, 0xD, 0xF, .segU13⟩, ⟨.segrom, 0xE, 0xF, .segU14⟩, ⟨.segrom, 0xF, 0xF, .segBlank⟩]

/-- The SELROM rows (20_memory.md R52). -/
def selromRows : List Row :=
  [⟨.selrom, 0x0, 0x3, .sel0⟩, ⟨.selrom, 0x1, 0x3, .sel1⟩, ⟨.selrom, 0x2, 0x3, .sel2⟩, ⟨.selrom, 0x3, 0x3, .sel3⟩]

/-- All 26 rows (30_encoding.md R89). -/
def opcodeTable : List Row := uopRows ++ segromRows ++ selromRows

/-- The rule of R93: the row's format and (v AND mask) = pattern. -/
def Row.applies (r : Row) (f : Format) (v : Nat) : Bool := r.format = f && (v &&& r.mask) = r.pattern

/-- Why a value is no row of its format. -/
inductive DecodeReject
  /-- a PH code that is reserved (30_encoding.md R95) -/
  | reservedPhase (code : Nat)
  /-- a value wider than the format's matched value (R93) -/
  | tooWide (format : Format) (value : Nat)
deriving DecidableEq, Repr

/-- The decoder, total on every number: which row a value of a format selects, or why none (30_encoding.md R88, R93, R95). -/
def decode (f : Format) (v : Nat) : Except DecodeReject Instr :=
  if v < 2 ^ f.width then
    match opcodeTable.find? (fun r => r.applies f v) with
    | some r => .ok r.instr
    | none => .error (.reservedPhase v)
  else .error (.tooWide f v)

/-- The encoder: the format and the code of each row, from 30_encoding.md R88 (PH codes), R80 with 20_memory.md R51 (digit
codes) and R52 (positions). -/
def encode : Instr → Format × Nat
  | .ll => (.uop, 0)
  | .cl => (.uop, 1)
  | .ds => (.uop, 2)
  | .ch => (.uop, 3)
  | .lh => (.uop, 4)
  | .hd => (.uop, 5)
  | .seg0 => (.segrom, 0)
  | .seg1 => (.segrom, 1)
  | .seg2 => (.segrom, 2)
  | .seg3 => (.segrom, 3)
  | .seg4 => (.segrom, 4)
  | .seg5 => (.segrom, 5)
  | .seg6 => (.segrom, 6)
  | .seg7 => (.segrom, 7)
  | .seg8 => (.segrom, 8)
  | .seg9 => (.segrom, 9)
  | .segU10 => (.segrom, 10)
  | .segU11 => (.segrom, 11)
  | .segU12 => (.segrom, 12)
  | .segU13 => (.segrom, 13)
  | .segU14 => (.segrom, 14)
  | .segBlank => (.segrom, 15)
  | .sel0 => (.selrom, 0)
  | .sel1 => (.selrom, 1)
  | .sel2 => (.selrom, 2)
  | .sel3 => (.selrom, 3)

/-- The 3-bit code of a phase (30_encoding.md R88). -/
def phaseCode : Phase → BitVec 3
  | .ll => 0
  | .cl => 1
  | .ds => 2
  | .ch => 3
  | .lh => 4
  | .hd => 5

/-- The phase of a code, none for the reserved codes 6 and 7 (30_encoding.md R95). -/
def phaseOfCode (c : BitVec 3) : Option Phase :=
  if c = 0 then some .ll else if c = 1 then some .cl else if c = 2 then some .ds
  else if c = 3 then some .ch else if c = 4 then some .lh else if c = 5 then some .hd else none

/-- The SEGROM row a digit code addresses (30_encoding.md R89, 20_memory.md R51). -/
def segRow (c : DigitCode) : Instr :=
  match decode .segrom c.toNat with
  | .ok i => i
  | .error _ => .segBlank

/-- The SELROM row a position addresses (30_encoding.md R89, 20_memory.md R52). -/
def selRow (p : Position) : Instr :=
  match decode .selrom p.toNat with
  | .ok i => i
  | .error _ => .sel0

/-- QUAD_IN as one 19-bit number, in_dp in bits 18:16, in_d3 in 15:12, in_d2 in 11:8, in_d1 in 7:4, in_d0 in 3:0 (30_encoding.md R83). -/
def Quad.pack (q : Quad) : BitVec 19 := q.dp ++ q.d3 ++ q.d2 ++ q.d1 ++ q.d0

/-- The five lines of a packed value (30_encoding.md R83). -/
def Quad.unpack (v : BitVec 19) : Quad :=
  { d0 := v.extractLsb' 0 4, d1 := v.extractLsb' 4 4, d2 := v.extractLsb' 8 4, d3 := v.extractLsb' 12 4, dp := v.extractLsb' 16 3 }

/-- The formats a table word of `nbits` bits can belong to: the exact widths 2, 3 and 4 name one format each. Rounded to whole
bytes the three formats have the same width, and the word is then looked up in the table's order (log 6). -/
def tableFormats (nbits : Nat) : List Format :=
  if nbits = 2 then [.selrom] else if nbits = 3 then [.uop] else if nbits = 4 then [.segrom] else [.uop, .segrom, .selrom]

/-- The first format of a list that has a row for the value. -/
def firstRow : List Format → Nat → Option Instr
  | [], _ => none
  | f :: fs, v =>
    match decode f v with
    | .ok i => some i
    | .error _ => firstRow fs v

/-- The instruction the decoder reads from a word numbered as opcode_table.json numbers it. The table has three maps whose
codes overlap, so a bare word of whole bytes is looked up in them in the table's order: 0 to 5 a micro-operation, 6 to 15 a
SEGROM row (log 6). The machine never decodes such a word: it decodes PH, a digit code or POS, each with its own format. -/
def decodeTableWord (nbits w : Nat) : Option Instr := firstRow (tableFormats nbits) w

end Sys2Proof
end

