-- ==== Sys2Proof/Machine/Fetch.lean ====
section
/-! DEFINITION. Which row the next step performs, and how a row is made the one it performs (spec/42_sequencer.md R140; 10_state.md R24: SEQ is what a processor's pc is). -/

namespace Sys2Proof.Machine

/-- The micro-operation PH names (42_sequencer.md R140, 30_encoding.md R88). -/
def fetch (s : State) : Instr :=
  match s.ph with
  | .ll => .ll
  | .cl => .cl
  | .ds => .ds
  | .ch => .ch
  | .lh => .lh
  | .hd => .hd

/-- Q.D[p] <- c. -/
def setDigit (q : Quad) (p : Position) (c : DigitCode) : Quad :=
  if p = 0#2 then { q with d0 := c } else if p = 1#2 then { q with d1 := c }
  else if p = 2#2 then { q with d2 := c } else { q with d3 := c }

/-- A state whose next step performs the row of format `f` and code `n`: a micro-operation through PH; a SEGROM row through the
DS step of bit 15 with that code as the digit of the current position; a SELROM row through the DS step of bit 7 at that
position (log 6, log 8). -/
def placeRow (s : State) (f : Format) (n : Nat) : State :=
  match f with
  | .uop => { s with rst := false, ph := (phaseOfCode (BitVec.ofNat 3 n)).getD s.ph }
  | .segrom => { s with rst := false, ph := .ds, bitc := 15#4, q := setDigit s.q s.pos (BitVec.ofNat 4 n) }
  | .selrom => { s with rst := false, ph := .ds, bitc := 7#4, pos := BitVec.ofNat 2 n }

/-- The row of a table word made the next one; a word the decoder refuses changes nothing but rst. -/
def placeWord (s : State) (nbits w : Nat) : State :=
  match decodeTableWord nbits w with
  | some i => placeRow s (encode i).1 (encode i).2
  | none => { s with rst := false }

end Sys2Proof.Machine
end

