-- ==== Sys2Proof/Machine/HostReference.lean ====
section
/-! DEFINITION. The host that feeds the block, as spec/43_host_reference.md gives it: the formatter, the handlers of its two shared cells, the attachment to QUAD_IN, the main loop, and the events of the outside world between two steps. -/

namespace Sys2Proof.Machine

/-- round(volt * 100) for an exact sample (43_host_reference.md R176, D19): the nearest integer, and at a tie k + 1/2 either
neighbour, by the free parameter ROUND (log 10). -/
def roundCentivolts (v : Volts) : Nat :=
  let scaled := 100 * v.num
  let den := v.denPred + 1
  let k := scaled / den
  let rest := scaled % den
  if 2 * rest < den then k
  else if 2 * rest = den then (if Config.roundTieUp k then k + 1 else k)
  else k + 1

/-- val = min(round(volt * 100), 330) (43_host_reference.md R176). -/
def centivolts (v : Volts) : Nat := min (roundCentivolts v) Config.valMax

/-- FORMAT, voltage mode, put on the bus as (d0, d1, d2, B | 001) (43_host_reference.md R176, R179). -/
def formatVoltage (val : Nat) : Quad :=
  { d0 := BitVec.ofNat 4 (val / 100), d1 := BitVec.ofNat 4 (val % 100 / 10), d2 := BitVec.ofNat 4 (val % 10),
    d3 := Config.blank, dp := 0b001 }

/-- FORMAT, time mode, put on the bus as (d0, d1, d2, d3 | 100) (43_host_reference.md R177, R179). -/
def formatTime (total : Nat) : Quad :=
  { d0 := BitVec.ofNat 4 (total / 60 / 10 % 10), d1 := BitVec.ofNat 4 (total / 60 % 10),
    d2 := BitVec.ofNat 4 (total % 60 / 10), d3 := BitVec.ofNat 4 (total % 60 % 10), dp := 0b100 }

/-- The quad of one formatter pass: the mode decides which of the two is read (43_host_reference.md R178). -/
def formatQuad (m : DisplayMode) (total : Nat) (v : Volts) : Quad :=
  match m with
  | .voltage => formatVoltage (centivolts v)
  | .time => formatTime total

/-- ElapsedSeconds incremented, modulo 6000 (43_host_reference.md R171). -/
def tickValue (n : Nat) : Nat := (n + 1) % Config.secondsMod

/-- The mode of the pass: the one it has read, or the present one if it has read none yet (43_host_reference.md R178). -/
def State.passMode (s : State) : DisplayMode :=
  match s.pass with
  | .mode m => m
  | _ => s.mode

/-- The quad the pass puts on the bus: the one it has computed, or the one it computes now (43_host_reference.md R176, R177). -/
def State.passQuad (s : State) (v : Volts) : Quad :=
  match s.pass with
  | .quad q => q
  | _ => formatQuad s.passMode s.elapsed v

/-- ElapsedSeconds once the tick handler that has begun, if one has, has ended: the successor of what it read (43_host_reference.md R175). -/
def State.settledSeconds (s : State) : Nat :=
  match s.tickSeen with
  | some n => tickValue n
  | none => s.elapsed

/-- The tick handler that has begun, if one has, ends. All handlers preempt the main loop on the same single core, so this comes before
whatever the main loop does next (43_host_reference.md R184; log 9). -/
def State.endTick (s : State) : State := { s with elapsed := s.settledSeconds, tickSeen := none }

/-- The main loop reads DisplayMode (43_host_reference.md R178). -/
def State.readMode (s : State) : State := { s with pass := .mode s.mode }

/-- The main loop reads the second value and computes the digits (43_host_reference.md R176, R177, R178). -/
def State.readValue (s : State) (v : Volts) : State := { s with pass := .quad (formatQuad s.passMode s.elapsed v) }

/-- The main loop does what is left of the pass and puts the quad on QUAD_IN (43_host_reference.md R179). -/
def State.presentQuad (s : State) (v : Volts) : State := { s with quadIn := s.passQuad v, pass := .done }

/-- One event of the outside world (43_host_reference.md R171 to R182; 10_state.md R33, R34). A tick that was interrupted
between its read and its write writes the successor of what it read, so a button reset in between is lost (R175, U9).
What the main loop does, and the next tick, wait for the tick handler that has begun (R184). -/
def applyEvent (s : State) : Event → State
  | .drive q => { s with quadIn := q }
  | .setRst b => { s with rst := b }
  | .tickRead => { s.endTick with tickSeen := some s.endTick.elapsed }
  | .tick => { s with elapsed := tickValue (s.tickSeen.getD s.elapsed), tickSeen := none }
  | .resetButton => { s with elapsed := 0 }
  | .modeEnter => { s with mode := .voltage }
  | .modeExit => { s with mode := .time }
  | .modeRead => s.endTick.readMode
  | .valueRead v => s.endTick.readValue v
  | .present v => s.endTick.presentQuad v
  | .loopStart => { s.endTick with loop := true, pass := .idle }

/-- The events of one interval between steps, in their order. -/
def applyEvents (s : State) (es : List Event) : State := es.foldl applyEvent s

/-- The n-th sample of the main loop, a free value in [0, 3.3] volts (43_host_reference.md R180). -/
def liveSample (n : Nat) : Volts := if (Config.rawSample n).wellFormed then Config.rawSample n else ⟨33, 9⟩

/-- The next step is the LL step of position 0: the multiplexer of the document's loop has rendered a frame and the loop is at its
formatter (43_host_reference.md R182). -/
def State.atFrame (s : State) : Bool := s.ph = .ll && s.pos = 0#2

/-- The main loop begins the pass of the coming frame (43_host_reference.md R182). -/
def State.beginPass (s : State) : State := { s with pass := .idle }

/-- The main loop ends the pass of the coming frame, if it has not yet: it does what is left of it, after the tick
handler that has begun (43_host_reference.md R182, R184). -/
def State.finishPass (s : State) : State :=
  match s.pass with
  | .done => s
  | _ => { applyEvent s (.present (liveSample s.samples)) with samples := s.samples + 1 }

/-- The main loop, while it runs, makes one pass in the interval before each capture and none elsewhere: `f` is its part in it
(43_host_reference.md R182; log 2). -/
def State.loopPart (s : State) (f : State → State) : State := if s.loop && s.atFrame then f s else s

/-- What the outside world does after a step and before the next: the first entry of the schedule, nothing when it is exhausted, so
that the inputs keep their values (log 7). Before a capture the main loop, if it runs, makes its pass among these events: it begins
before them and has ended after them, and what the events say of the pass is where they preempt it (43_host_reference.md R182, R184). -/
def advanceWorld (s : State) : State :=
  (applyEvents (State.loopPart { s with schedule := s.schedule.tail } State.beginPass) (s.schedule.headD [])).loopPart State.finishPass

end Sys2Proof.Machine
end

