-- ==== Sys2Proof/Machine/Cycle.lean ====
section
/-! DEFINITION. The parts of one step: the block's own edge, and what follows it in the system around the block (spec/42_sequencer.md R140; 20_memory.md R64, R65). -/

namespace Sys2Proof.Machine

/-- STEP(state, rst, QUAD_IN) of the block (42_sequencer.md R140): the reset step when rst is 1, whatever PH names (R204). -/
def blockStep (s : State) : Host.Outcome State Fault Refusal :=
  if s.rst then .next s.resetBlock else exec (fetch s) s

/-- What follows the block's edge in the same step of the whole system: the chain reacts to the pins (20_memory.md R64, R65),
then the outside world acts up to the next edge (log 7). -/
def afterBlock (before after : State) : State := advanceWorld (chainReact before after)

/-- The whole system's step. -/
def cycle (s : State) : Host.Outcome State Fault Refusal :=
  match blockStep s with
  | .next t => .next (afterBlock s t)
  | .fault r => .fault r
  | .refused r => .refused r

end Sys2Proof.Machine
end

