-- ==== Sys2Proof/Machine/Trace.lean ====
section
/-! DEFINITION. The trace notation and its pseudo-operations (spec/30_encoding.md R97). -/

namespace Sys2Proof.Machine

/-- One token per step (30_encoding.md R97); `llStar` is an LL step that also captures, `ds b` is DS0 or DS1. -/
inductive Token
  | ll | llStar | cl | ds (b : Bool) | ch | lh | hd | rst
deriving DecidableEq, Repr

/-- The token of the step taken from a state. -/
def tokenOf (s : State) : Token :=
  if s.rst then .rst
  else
    match s.ph with
    | .ll => if s.pos = 0#2 then .llStar else .ll
    | .cl => .cl
    | .ds => .ds ((word s.q s.pos).getLsbD s.bitc.toNat)
    | .ch => .ch
    | .lh => .lh
    | .hd => .hd

/-- BIT b = CL, DSb, CH. -/
def bitTokens (b : Bool) : List Token := [.cl, .ds b, .ch]

/-- BYTE v = BIT v[7], ..., BIT v[0]. -/
def byteTokens (v : Byte) : List Token := [7, 6, 5, 4, 3, 2, 1, 0].flatMap (fun i => bitTokens (v.getLsbD i))

/-- SHIFT16 w = BYTE w[15:8], BYTE w[7:0]. -/
def shift16Tokens (w : SerialWord) : List Token := byteTokens (w.extractLsb' 8 8) ++ byteTokens (w.extractLsb' 0 8)

/-- HOLD n = HD repeated n times. -/
def holdTokens (n : Nat) : List Token := List.replicate n .hd

/-- POSITION p w = LL, SHIFT16 w, LH, HOLD HOLD_CYCLES; at position 0 the LL step captures. -/
def positionTokens (p : Position) (w : SerialWord) : List Token :=
  (if p = 0#2 then .llStar else .ll) :: (shift16Tokens w ++ .lh :: holdTokens Config.holdCycles)

/-- FRAME w0 w1 w2 w3. -/
def frameTokens (w0 w1 w2 w3 : SerialWord) : List Token :=
  positionTokens 0 w0 ++ positionTokens 1 w1 ++ positionTokens 2 w2 ++ positionTokens 3 w3

/-- The tokens of the next `n` steps. -/
def traceOf : Nat → State → List Token
  | 0, _ => []
  | n + 1, s =>
    match step s with
    | .next t => tokenOf s :: traceOf n t
    | .fault _ => []
    | .refused _ => []

end Sys2Proof.Machine
end

