-- ==== Sys2Proof/Safety.lean ====
section
/-! DEFINITION. What counts as a legal state, a legal step on the pins and a met builder's requirement (spec/10_state.md R26, R32; 20_memory.md R61, R66; 42_sequencer.md R153; 43_host_reference.md R170; 70_reset_and_hazards.md R241). -/

namespace Sys2Proof.Machine

/-- R26, and the bound of HOLDC (42_sequencer.md R155): the counters' values in each phase. -/
structure SeqLegal (s : State) : Prop where
  latchHigh : s.ph = .lh → s.bitc = 0#4
  hold : s.ph = .hd → s.bitc = 0#4
  count : s.holdc.toNat < Config.holdCycles

/-- R32, (I1) to (I6): the pins in each phase. -/
structure PinsLegal (s : State) : Prop where
  i1 : (s.ph = .cl ∨ s.ph = .ds ∨ s.ph = .ch ∨ s.ph = .lh) → s.latch = false
  i2 : s.ph = .hd → s.latch = true ∧ s.sclk = true
  i3 : (s.ph = .ds ∨ s.ph = .ch) → s.sclk = false
  i4 : s.ph = .lh → s.sclk = true ∧ s.bitc = 0#4
  i5 : s.ph = .hd → s.data = (sel s.pos).getLsbD 0
  i6 : s.ph = .ll → (s.latch = true ∧ s.sclk = true) ∨ (s.latch = false ∧ s.sclk = false ∧ s.data = false)

/-- 20_memory.md R66 with 42_sequencer.md R154: what the chain holds of the word in transfer, and what it shows. The bits already
shifted stand in the low end of ESR; EOUT is the word of the position committed last. -/
structure ChainLegal (s : State) : Prop where
  /-- before the CH step of bit BITC the bits above BITC have been shifted in -/
  shifted : (s.ph = .cl ∨ s.ph = .ds ∨ s.ph = .ch) →
    ∀ i, i + s.bitc.toNat < 15 → s.esr.getLsbD i = (word s.q s.pos).getLsbD (i + s.bitc.toNat + 1)
  /-- at the CH step DATA is the bit to be taken in -/
  data : s.ph = .ch → s.data = (word s.q s.pos).getLsbD s.bitc.toNat
  /-- at the LH step the word is complete -/
  full : s.ph = .lh → s.esr = word s.q s.pos ∧ s.data = (sel s.pos).getLsbD 0
  /-- in the hold the position's own word is shown -/
  shown : s.ph = .hd → s.eout = word s.q s.pos
  /-- a LATCH that stands high at an LL step shows the word of the position before -/
  previous : s.ph ≠ .hd → s.pos ≠ 0#2 → s.eout = word s.q (s.pos - 1#2)

/-- 43_host_reference.md R170: ElapsedSeconds, and a copy of it in a tick handler, lie in 0 to 5999. -/
structure HostLegal (s : State) : Prop where
  elapsed : s.elapsed < Config.secondsMod
  seen : ∀ n, s.tickSeen = some n → n < Config.secondsMod

/-- The legal states: an invariant of every step. -/
structure Legal (s : State) : Prop where
  seq : SeqLegal s
  pins : PinsLegal s
  chain : ChainLegal s
  host : HostLegal s

/-- R153: at most one of the three pins differs between two states. -/
def atMostOnePinChanges (s t : State) : Prop :=
  (s.latch = t.latch ∧ s.sclk = t.sclk) ∨ (s.latch = t.latch ∧ s.data = t.data) ∨ (s.sclk = t.sclk ∧ s.data = t.data)

/-- 20_memory.md R61: DATA changes only while SCLK and LATCH are 0, SCLK rises only while LATCH is 0, LATCH rises only while SCLK
is 1. -/
structure EdgesLegal (s t : State) : Prop where
  data : s.data ≠ t.data → s.sclk = false ∧ s.latch = false
  sclk : s.sclk = false → t.sclk = true → s.latch = false
  latch : s.latch = false → t.latch = true → s.sclk = true

/-- rst stays 0 for the next `n` steps whatever else the outside world does: it is 0 now and no event before them raises it. -/
def noResetFor (n : Nat) (s : State) : Prop :=
  s.rst = false ∧ ∀ es ∈ s.schedule.take n, Event.setRst true ∉ es

/-- Exactly one digit module is powered (41_digit_select.md R128). -/
def onlyModulePowered (eout : SerialWord) (p : Position) : Prop := ∀ r, modulePowered eout r = true ↔ r = p

/-- The builder's requirement on the refresh rate, in Hz and steps (70_reset_and_hazards.md R241): CLK_HZ / T_FRAME >= 200. -/
def refreshRateMet (clkHz hold : Nat) : Prop := 200 * (200 + 4 * hold) ≤ clkHz

end Sys2Proof.Machine
end

