-- ==== Sys2Proof/Certificates/Slice0/Obligations.lean ====
section
/-! DEFINITION. The statements for the provers. Each docstring names the rule of spec/ it formalises. `advanceWorld` stands in every statement about `step` for what the outside world does after the edge (log 7); what it is, the main loop's part in it among the rest, is Obligations.ScheduleAdvancesOneIntervalPerStep, and it leaves the block and the display chain alone (Obligations.EventsLeaveTheBlockAndTheChainAlone). -/

open Sys2Proof Sys2Proof.Machine

-- Encoding

/-- 30_encoding.md R88, R80, 20_memory.md R51, R52: words written out from the spec's tables decode to their rows; the reserved
PH codes are refused by name (R95). -/
def Obligations.WrittenOutCodesDecode : Prop :=
  decode .uop 0b000 = .ok .ll ∧ decode .uop 0b010 = .ok .ds ∧ decode .uop 0b101 = .ok .hd ∧
  decode .segrom 0b0000 = .ok .seg0 ∧ decode .segrom 0b0111 = .ok .seg7 ∧ decode .segrom 0b1010 = .ok .segU10 ∧
  decode .segrom 0b1111 = .ok .segBlank ∧ decode .selrom 0b00 = .ok .sel0 ∧ decode .selrom 0b10 = .ok .sel2 ∧
  decode .uop 0b110 = .error (.reservedPhase 6) ∧ decode .uop 0b111 = .error (.reservedPhase 7)

/-- 30_encoding.md R89, R93, R95: decoding a row's encoding gives the row; whatever decodes is its row's encoding, so no two codes of
a format share a row; and exactly the legal codes of a format decode. -/
def Obligations.DecodeAndEncodeAgree : Prop :=
  (∀ i : Instr, i.wellFormed = true → decode (encode i).1 (encode i).2 = .ok i) ∧
  (∀ (f : Format) (v : Nat) (i : Instr), decode f v = .ok i → encode i = (f, v)) ∧
  (∀ (f : Format) (v : Nat), f.codeLegal v = true ↔ ∃ i, decode f v = .ok i)

/-- 30_encoding.md R88, R95: PH always holds one of the six codes, its code decodes to the micro-operation the machine fetches, and no
phase has code 6 or 7. -/
def Obligations.PhaseCodesAreTheSixLegalOnes : Prop :=
  ∀ s : State, decode .uop (phaseCode s.ph).toNat = .ok (fetch s) ∧ phaseOfCode (phaseCode s.ph) = some s.ph ∧
    (∀ c : BitVec 3, phaseOfCode c = none ↔ c = 6 ∨ c = 7)

/-- 30_encoding.md R83: the packing of QUAD_IN loses nothing, and each line stands in the bits the table gives it. -/
def Obligations.QuadPackingRoundTrips : Prop :=
  (∀ q : Quad, Quad.unpack q.pack = q) ∧ (∀ v : BitVec 19, (Quad.unpack v).pack = v) ∧
  (∀ q : Quad, q.pack.toNat =
    q.dp.toNat * 2 ^ 16 + q.d3.toNat * 2 ^ 12 + q.d2.toNat * 2 ^ 8 + q.d1.toNat * 2 ^ 4 + q.d0.toNat)

/-- log 6, log 8 (the model's own placing of a row): after `withFetchWord` with a legal code at its format's own width, the very next
step performs that row: rst is 0 and the step is that row's meaning, then the chain and the outside world. -/
def Obligations.PlacedRowIsPerformedNext : Prop :=
  ∀ (s : State) (f : Format) (v : Nat) (i : Instr), decode f v = .ok i →
    ∃ t, exec i (s.withFetchWord f.width v) = .next t ∧
      step (s.withFetchWord f.width v) = .next (advanceWorld (chainReact (s.withFetchWord f.width v) t))

-- The step

/-- 42_sequencer.md R140: with rst = 0 a step is the micro-operation that PH's code decodes to; around it the step adds the display
chain's reaction to the pins (20_memory.md R64, R65) and what the outside world does before the next edge (log 7). -/
def Obligations.StepRunsTheDecodedMicroOperation : Prop :=
  ∀ (s : State) (i : Instr), s.rst = false → decode .uop (phaseCode s.ph).toNat = .ok i → i.wellFormed = true →
    ∃ t, exec i s = .next t ∧ step s = .next (advanceWorld (chainReact s t))

/-- 42_sequencer.md R151, 60_exceptions.md R200: every step and every row answers a next state, whatever the state and the inputs;
nothing faults or refuses, and the list of exception causes is empty. That a ROM row, also in a state that does not address it, is a
DS step at all is the model's choice (20_memory.md R53; log 6). -/
def Obligations.EveryStepAndEveryRowAnswers : Prop :=
  (∀ s : State, ∃ t, step s = .next t) ∧ (∀ (i : Instr) (s : State), ∃ t, exec i s = .next t) ∧ ¬∃ _ : Fault, True

/-- 42_sequencer.md R156, 20_memory.md R53: the ROM reads are part of DS. The DS step IS the step of the SEGROM row that Q.D[POS]
addresses, and of the SELROM row that POS addresses. -/
def Obligations.DsPerformsTheRowsItAddresses : Prop :=
  ∀ (s : State) (i j : Instr), decode .segrom (digit s.q s.pos).toNat = .ok i → decode .selrom s.pos.toNat = .ok j →
    exec .ds s = exec i s ∧ exec .ds s = exec j s

/-- 00_scope.md R8, 10_state.md R21, R36: what no row writes: the input lines, the display chain, the host's cells, the schedule and
the count of free values. -/
def Obligations.RowsLeaveTheEnvironmentAlone : Prop :=
  ∀ (i : Instr) (s t : State), exec i s = .next t →
    t.rst = s.rst ∧ t.quadIn = s.quadIn ∧ t.esr = s.esr ∧ t.eout = s.eout ∧ t.elapsed = s.elapsed ∧ t.mode = s.mode ∧
    t.tickSeen = s.tickSeen ∧ t.loop = s.loop ∧ t.pass = s.pass ∧ t.schedule = s.schedule ∧ t.draws = s.draws ∧ t.samples = s.samples

/-- 10_state.md R21, R24, R28 to R31 (the "written by" column): which rows write which element of the block; every other element
keeps its value. -/
def Obligations.RowsWriteOnlyTheirOwnRegisters : Prop :=
  ∀ (i : Instr) (s t : State), exec i s = .next t →
    (i ≠ .hd → t.pos = s.pos) ∧ (i ≠ .ll → i ≠ .ch → t.bitc = s.bitc) ∧ (i ≠ .lh → i ≠ .hd → t.holdc = s.holdc) ∧
    (i ≠ .ll ∨ s.pos ≠ 0#2 → t.q = s.q) ∧ (i ≠ .ll → i ≠ .lh → t.latch = s.latch) ∧ (i ≠ .cl → i ≠ .ch → t.sclk = s.sclk) ∧
    ((encode i).1 = .uop → i ≠ .ds → t.data = s.data)

-- The micro-operations: result, frame and completion in one equation

/-- 42_sequencer.md R141: LL. The second clause is the whole step: the falling edge of LATCH does nothing to the display chain. -/
def Obligations.LatchLowDropsTheLatchAndCaptures : Prop :=
  ∀ s : State,
    exec .ll s =
      .next { s with latch := false, bitc := 15#4, ph := .cl, q := if s.pos = 0#2 then s.quadIn else s.q } ∧
    (s.rst = false → s.ph = .ll → step s = .next (advanceWorld
      { s with latch := false, bitc := 15#4, ph := .cl, q := if s.pos = 0#2 then s.quadIn else s.q }))

/-- 42_sequencer.md R142: CL. The second clause is the whole step: the falling edge of SCLK does nothing to the display chain. The
third: the first CL after reset, two steps after the reset step, finds SCLK already 0. -/
def Obligations.ClockLowDropsTheShiftClock : Prop :=
  ∀ s : State,
    exec .cl s = .next { s with sclk := false, ph := .ds } ∧
    (s.rst = false → s.ph = .cl → step s = .next (advanceWorld { s with sclk := false, ph := .ds })) ∧
    (s.rst = true → ∃ t, step s = .next t ∧ (t.rst = false → ∃ u, step t = .next u ∧ u.ph = .cl ∧ u.sclk = false))

/-- 42_sequencer.md R143: DS. The bit is bit BITC of WORD(Q, POS): of the segment byte for BITC = 15 to 8, of the select byte for
BITC = 7 to 0; in the legal states SCLK and LATCH are 0. -/
def Obligations.DataSetSendsTheNextBit : Prop :=
  ∀ s : State,
    exec .ds s = .next { s with
      data := if 8 ≤ s.bitc.toNat then (enc (digit s.q s.pos) (dpf s.q s.pos)).getLsbD (s.bitc.toNat - 8)
        else (sel s.pos).getLsbD s.bitc.toNat,
      ph := .ch } ∧
    (s.rst = false → s.ph = .ds → step s = .next (advanceWorld { s with
      data := (word s.q s.pos).getLsbD s.bitc.toNat, ph := .ch })) ∧
    (Legal s → s.ph = .ds → s.sclk = false ∧ s.latch = false)

/-- 42_sequencer.md R144, 20_memory.md R64: CH. In the step the chain takes DATA in when SCLK rises. -/
def Obligations.ClockHighShiftsAndCountsBits : Prop :=
  ∀ s : State,
    exec .ch s = .next { s with
      sclk := true, bitc := if s.bitc = 0#4 then 0#4 else s.bitc - 1#4, ph := if s.bitc = 0#4 then .lh else .cl } ∧
    (s.rst = false → s.ph = .ch → step s = .next (advanceWorld { s with
      sclk := true, bitc := if s.bitc = 0#4 then 0#4 else s.bitc - 1#4, ph := if s.bitc = 0#4 then .lh else .cl,
      esr := if s.sclk then s.esr else s.esr.extractLsb' 0 15 ++ BitVec.ofBool s.data }))

/-- 42_sequencer.md R145, 20_memory.md R65: LH. In the step the chain commits when LATCH rises; from a legal state what it commits is
WORD(Q, POS). -/
def Obligations.LatchHighCommitsAndLoadsTheHold : Prop :=
  ∀ s : State,
    exec .lh s = .next { s with latch := true, holdc := BitVec.ofNat Config.holdW (Config.holdCycles - 1), ph := .hd } ∧
    (s.rst = false → s.ph = .lh → step s = .next (advanceWorld { s with
      latch := true, holdc := BitVec.ofNat Config.holdW (Config.holdCycles - 1), ph := .hd, eout := if s.latch then s.eout else s.esr })) ∧
    (Legal s → s.rst = false → s.ph = .lh → ∃ t, step s = .next t ∧ t.eout = word s.q s.pos ∧ t.sclk = true)

/-- 42_sequencer.md R146: HD. No pin is written; the count goes down, or the position advances modulo 4. -/
def Obligations.HoldCountsDownThenAdvances : Prop :=
  ∀ s : State,
    exec .hd s = .next (if s.holdc = 0#Config.holdW then { s with pos := s.pos + 1#2, ph := .ll }
      else { s with holdc := s.holdc - 1#Config.holdW, ph := .hd }) ∧
    (s.rst = false → s.ph = .hd → step s = .next (advanceWorld (if s.holdc = 0#Config.holdW then { s with pos := s.pos + 1#2, ph := .ll }
      else { s with holdc := s.holdc - 1#Config.holdW, ph := .hd }))) ∧
    (s.pos = 3#2 → s.pos + 1#2 = 0#2)

-- The ROM rows

/-- 40_segment_encoder.md R101 to R110: the ten digit rows with the bytes the spec gives for dp = 0 and dp = 1. The row is the DS step
in which SEGROM delivers it (log 6): for BITC = 15 to 8 it sends bit BITC-8 of its byte, below that the select byte as DS does. -/
def Obligations.DigitRowsSendTheirSegmentBytes : Prop :=
  ∀ r ∈ ([(.seg0, 0xC0, 0x40), (.seg1, 0xF9, 0x79), (.seg2, 0xA4, 0x24), (.seg3, 0xB0, 0x30), (.seg4, 0x99, 0x19),
      (.seg5, 0x92, 0x12), (.seg6, 0x82, 0x02), (.seg7, 0xF8, 0x78), (.seg8, 0x80, 0x00), (.seg9, 0x90, 0x10)] :
      List (Instr × Byte × Byte)),
    ∀ s : State, exec r.1 s = .next { s with
      data := if 8 ≤ s.bitc.toNat then (if dpf s.q s.pos then r.2.2 else r.2.1).getLsbD (s.bitc.toNat - 8)
        else (sel s.pos).getLsbD s.bitc.toNat,
      ph := .ch }

/-- 40_segment_encoder.md R111, R112: Blank and the five undefined digits all send 0xFF, or 0x7F with the flag (log 6). -/
def Obligations.BlankAndUndefinedRowsSendAllOff : Prop :=
  ∀ i ∈ [Instr.segU10, .segU11, .segU12, .segU13, .segU14, .segBlank],
    ∀ s : State, exec i s = .next { s with
      data := if 8 ≤ s.bitc.toNat then (if dpf s.q s.pos then (0x7F : Byte) else 0xFF).getLsbD (s.bitc.toNat - 8)
        else (sel s.pos).getLsbD s.bitc.toNat,
      ph := .ch }

/-- 41_digit_select.md R121 to R124: the four select rows with the bytes the spec gives; for BITC = 7 to 0 a row sends bit BITC of its
byte, above that the segment byte as DS does (log 6). -/
def Obligations.SelectRowsSendTheirSelectBytes : Prop :=
  ∀ r ∈ ([(.sel0, 0xF1), (.sel1, 0xF2), (.sel2, 0xF4), (.sel3, 0xF8)] : List (Instr × Byte)),
    ∀ s : State, exec r.1 s = .next { s with
      data := if 8 ≤ s.bitc.toNat then (enc (digit s.q s.pos) (dpf s.q s.pos)).getLsbD (s.bitc.toNat - 8)
        else r.2.getLsbD s.bitc.toNat,
      ph := .ch }

-- The combinational functions

/-- 40_segment_encoder.md R115, R117: ENC on all 32 operand values, and the round-trip property for every code. -/
def Obligations.EncoderTableIsTheSpecs : Prop :=
  (∀ c : DigitCode, enc c true = enc c false &&& 0x7F) ∧
  (List.ofFn fun c : Fin 16 => enc (BitVec.ofFin c) false) =
    [0xC0, 0xF9, 0xA4, 0xB0, 0x99, 0x92, 0x82, 0xF8, 0x80, 0x90, 0xFF, 0xFF, 0xFF, 0xFF, 0xFF, 0xFF] ∧
  (List.ofFn fun c : Fin 16 => enc (BitVec.ofFin c) true) =
    [0x40, 0x79, 0x24, 0x30, 0x19, 0x12, 0x02, 0x78, 0x00, 0x10, 0x7F, 0x7F, 0x7F, 0x7F, 0x7F, 0x7F]

/-- 40_segment_encoder.md R116: a segment byte gives back the flag and the digit class, the six codes 10 to 15 sharing one byte. -/
def Obligations.EncoderIsInjectiveUpToBlank : Prop :=
  ∀ (c c' : DigitCode) (dp dp' : Bool),
    (enc c dp = enc c' dp' ↔ dp = dp' ∧ (c = c' ∨ (9 < c.toNat ∧ 9 < c'.toNat))) ∧ (enc c dp).getLsbD 7 = !dp

/-- 40_segment_encoder.md R113, R118: DPMOD clears bit 7, leaves bits 6 to 0, and is idempotent; without the flag it is the identity. -/
def Obligations.ModifierClearsOnlyBitSeven : Prop :=
  ∀ b : Byte, dpmod b false = b ∧ dpmod b true = b &&& 0x7F ∧ (dpmod b true).getLsbD 7 = false ∧
    (∀ i, i < 7 → (dpmod b true).getLsbD i = b.getLsbD i) ∧ dpmod (dpmod b true) true = dpmod b true

/-- 20_memory.md R52, 30_encoding.md R85: the select table, and its one distinguishing bit. -/
def Obligations.SelectTableIsTheSpecs : Prop :=
  sel 0 = 0xF1 ∧ sel 1 = 0xF2 ∧ sel 2 = 0xF4 ∧ sel 3 = 0xF8 ∧ ∀ p : Position, sel p = 0xF0 ||| ((1 : Byte) <<< p.toNat)

/-- 41_digit_select.md R126: the flag of positions 0, 1, 2 is its bit of DP; position 3 has none. -/
def Obligations.PointFlagsBelongToPositionsZeroToTwo : Prop :=
  ∀ q : Quad, dpf q 0 = q.dp.getLsbD 0 ∧ dpf q 1 = q.dp.getLsbD 1 ∧ dpf q 2 = q.dp.getLsbD 2 ∧ dpf q 3 = false

/-- 41_digit_select.md R125: the two bytes of WORD; WORD(q, 3) does not depend on the flags; WORD(q, p) depends on no digit but
q.D[p]; two positions never give the same word; and the rule's example. -/
def Obligations.WordIsSegmentThenSelect : Prop :=
  (∀ (q : Quad) (p : Position), (word q p).extractLsb' 8 8 = enc (digit q p) (dpf q p) ∧ (word q p).extractLsb' 0 8 = sel p) ∧
  (∀ (q : Quad) (m : BitVec 3), word { q with dp := m } 3 = word q 3) ∧
  (∀ (q r : Quad) (p : Position), q.dp = r.dp → digit q p = digit r p → word q p = word r p) ∧
  (∀ (q r : Quad) (p p' : Position), word q p = word r p' → p = p') ∧
  (∀ q : Quad, q.d0 = 0 → q.d1 = 2 → q.d2 = 0 → q.d3 = 5 → q.dp = 0b100 →
    word q 0 = 0xC0F1 ∧ word q 1 = 0xA4F2 ∧ word q 2 = 0x40F4 ∧ word q 3 = 0x92F8)

/-- 41_digit_select.md R127: the range of WORD. -/
def Obligations.WordStaysInItsRange : Prop :=
  ∀ (q : Quad) (p : Position),
    (∃ c dp, (word q p).extractLsb' 8 8 = enc c dp) ∧ (p = 3#2 → ∃ c, (word q p).extractLsb' 8 8 = enc c false) ∧
    (word q p).extractLsb' 4 4 = 0xF ∧ (∃ r : Position, ∀ r' : Position, (word q p).getLsbD r'.toNat = true ↔ r' = r) ∧
    0x00F1 ≤ (word q p).toNat ∧ ((word q p).getLsbD 15 = false ↔ dpf q p = true)

/-- 41_digit_select.md R129: from a committed word an observer recovers the position, the point and the digit class. -/
def Obligations.CommittedWordReadsBack : Prop :=
  ∀ (q : Quad) (p : Position), readWord (word q p) = some ⟨p, dpf q p, digitClass (digit q p)⟩

-- Reset

/-- 70_reset_and_hazards.md R230, R233: State.reset has the reset values the spec gives; nothing is said of Q, ESR, EOUT and the input
lines (logs 3, 4, 5). -/
def Obligations.ResetStateHoldsTheSpecsValues : Prop :=
  State.reset.pos = 0#2 ∧ State.reset.ph = .ll ∧ State.reset.bitc = 0#4 ∧ State.reset.holdc = 0#Config.holdW ∧ State.reset.latch = false ∧
  State.reset.sclk = false ∧ State.reset.data = false ∧ State.reset.elapsed = 0 ∧ State.reset.mode = .time

/-- 70_reset_and_hazards.md R230, R231: a step with rst = 1 gives RESET_STATE whatever the state was; ESR and EOUT keep their values;
the first step with rst = 0 after it is the LL step of position 0, which captures. -/
def Obligations.ResetStepGivesResetState : Prop :=
  ∀ s : State, s.rst = true → ∃ t, step s = .next t ∧
    t.pos = 0#2 ∧ t.ph = .ll ∧ t.bitc = 0#4 ∧ t.holdc = 0#Config.holdW ∧ t.latch = false ∧ t.sclk = false ∧ t.data = false ∧
    t.esr = s.esr ∧ t.eout = s.eout ∧
    (t.rst = false → ∃ u, step t = .next u ∧ u.q = t.quadIn ∧ u.ph = .cl ∧ u.pos = 0#2 ∧ u.bitc = 15#4)

/-- 70_reset_and_hazards.md R232, 43_host_reference.md R172, 60_exceptions.md R204: the reset step writes nothing but the block: the
chain, the host's cells and the inputs change only by what the outside world does. Q is left free (log 3): some value, of which
nothing is said. -/
def Obligations.ResetStepTouchesOnlyTheBlock : Prop :=
  ∀ s : State, s.rst = true → ∃ (q : Quad) (n : Nat), step s = .next (advanceWorld { s with
    pos := 0#2, ph := .ll, bitc := 0#4, holdc := 0#Config.holdW, latch := false, sclk := false, data := false, q := q, draws := n })

/-- 70_reset_and_hazards.md R237: a reset in mid-transfer abandons the word: nothing is committed until the 50th step after it, and
the first commit is clean, whatever ESR held. -/
def Obligations.FirstCommitAfterResetIsClean : Prop :=
  ∀ s : State, s.rst = true → ∃ t, step s = .next t ∧ (noResetFor 50 t →
    (∀ k, k ≤ 49 → ∃ u, Host.Core.run core k t = .next u ∧ u.eout = s.eout) ∧
    (∃ u, Host.Core.run core 50 t = .next u ∧ u.eout = word t.quadIn 0))

/-- 10_state.md R22: no rule reads Q before the first capture: at the LL step of position 0 its old value makes no difference. -/
def Obligations.FrameRegisterIsUnreadBeforeTheCapture : Prop :=
  ∀ (s : State) (q : Quad), s.rst = false → s.ph = .ll → s.pos = 0#2 → ∃ t, step s = .next t ∧ step { s with q := q } = .next t

-- The display chain and the pins

/-- 20_memory.md R64: ESR takes DATA in exactly the steps in which SCLK rises. -/
def Obligations.ChainShiftsOnRisingShiftClock : Prop :=
  ∀ s : State, ∃ t, step s = .next t ∧
    (s.sclk = false → t.sclk = true → t.esr = s.esr.extractLsb' 0 15 ++ BitVec.ofBool t.data) ∧
    (¬(s.sclk = false ∧ t.sclk = true) → t.esr = s.esr)

/-- 20_memory.md R65: EOUT takes ESR in exactly the steps in which LATCH rises. -/
def Obligations.ChainCommitsOnRisingLatch : Prop :=
  ∀ s : State, ∃ t, step s = .next t ∧
    (s.latch = false → t.latch = true → t.eout = s.esr) ∧ (¬(s.latch = false ∧ t.latch = true) → t.eout = s.eout)

/-- 42_sequencer.md R153: which pin a step may change, and that a reset step changes pins only downward. -/
def Obligations.OnePinPerStep : Prop :=
  ∀ s : State, ∃ t, step s = .next t ∧
    (s.rst = false → atMostOnePinChanges s t ∧
      (s.ph = .ll ∨ s.ph = .lh → t.sclk = s.sclk ∧ t.data = s.data) ∧
      (s.ph = .cl ∨ s.ph = .ch → t.latch = s.latch ∧ t.data = s.data) ∧
      (s.ph = .ds → t.latch = s.latch ∧ t.sclk = s.sclk) ∧
      (s.ph = .hd → t.latch = s.latch ∧ t.sclk = s.sclk ∧ t.data = s.data)) ∧
    (s.rst = true → t.latch = false ∧ t.sclk = false ∧ t.data = false)

/-- 20_memory.md R61, from every legal state: DATA changes only while SCLK and LATCH are 0, SCLK rises only while LATCH is 0, LATCH
rises only while SCLK is 1. -/
def Obligations.LegalStatesGiveLegalEdges : Prop :=
  ∀ s : State, Legal s → s.rst = false → ∃ t, step s = .next t ∧ EdgesLegal s t

/-- 41_digit_select.md R128, 20_memory.md R67: after the commit exactly the module of the position just sent is powered, and its lit
segments are the 0 bits of that position's segment byte. -/
def Obligations.OnlyTheCommittedModuleIsPowered : Prop :=
  ∀ s : State, Legal s → s.rst = false → s.ph = .lh → ∃ t, step s = .next t ∧ onlyModulePowered t.eout s.pos ∧
    ∀ b : BitVec 3, segmentLit t.eout b = true ↔ (enc (digit s.q s.pos) (dpf s.q s.pos)).getLsbD b.toNat = false

-- Invariants

/-- 10_state.md R26, R32, 20_memory.md R66, 43_host_reference.md R170: every step, with or without reset and whatever the outside world
does, takes a legal state to a legal state. -/
def Obligations.StepKeepsTheStateLegal : Prop :=
  ∀ s : State, Legal s → ∃ t, step s = .next t ∧ Legal t

/-- State.reset is legal (10_state.md R26, R32); it rests on no value the model chose but an absent tick read (log 9). -/
def Obligations.ResetStateIsLegal : Prop := Legal State.reset

/-- 00_scope.md R5, 10_state.md R31, 42_sequencer.md R155: HOLD_W, the width of HOLDC, is the smallest w >= 1 with 2^w >= HOLD_CYCLES; the
load of HOLD_CYCLES - 1 does not wrap in it, nor does the count in an HD step; a legal state has HOLDC below HOLD_CYCLES. -/
def Obligations.HoldCounterFitsItsWidth : Prop :=
  1 ≤ Config.holdW ∧ Config.holdCycles ≤ 2 ^ Config.holdW ∧
  (∀ w, 1 ≤ w → Config.holdCycles ≤ 2 ^ w → Config.holdW ≤ w) ∧
  (∀ s : State, s.rst = false → s.ph = .lh → ∃ t, step s = .next t ∧ t.holdc.toNat = Config.holdCycles - 1) ∧
  (∀ s : State, s.rst = false → s.ph = .hd → ∃ t, step s = .next t ∧
    t.holdc.toNat = if s.holdc.toNat = 0 then 0 else s.holdc.toNat - 1) ∧
  ∀ s : State, Legal s → s.holdc.toNat ≤ Config.holdCycles - 1

-- Control flow

/-- 10_state.md R25, 42_sequencer.md R148, R152: POS changes only in the last HD step of a position, to the next one modulo 4. -/
def Obligations.PositionAdvancesOnlyAtTheEndOfTheHold : Prop :=
  ∀ s : State, s.rst = false → ∃ t, step s = .next t ∧ t.pos = if s.ph = .hd ∧ s.holdc = 0#Config.holdW then s.pos + 1#2 else s.pos

/-- 10_state.md R21, 42_sequencer.md R147: with rst = 0, Q is written by the LL step of position 0 only, with all of QUAD_IN. -/
def Obligations.OnlyTheCaptureWritesTheFrameRegister : Prop :=
  ∀ s : State, s.rst = false → ∃ t, step s = .next t ∧ t.q = if s.ph = .ll ∧ s.pos = 0#2 then s.quadIn else s.q

/-- 42_sequencer.md R148: the sequence of phases, and of the writes to LATCH and SCLK, is the same for every input. -/
def Obligations.ControlDoesNotDependOnTheInputs : Prop :=
  ∀ (n : Nat) (s s' : State), noResetFor n s → noResetFor n s' →
    s.pos = s'.pos → s.ph = s'.ph → s.bitc = s'.bitc → s.holdc = s'.holdc → s.latch = s'.latch → s.sclk = s'.sclk →
    ∃ t t', Host.Core.run core n s = .next t ∧ Host.Core.run core n s' = .next t' ∧
      t.pos = t'.pos ∧ t.ph = t'.ph ∧ t.bitc = t'.bitc ∧ t.holdc = t'.holdc ∧ t.latch = t'.latch ∧ t.sclk = t'.sclk

/-- 42_sequencer.md R149: the offsets of a position from its LL step: CL, DS, CH of bit 15 - i at 1+3i, 2+3i, 3+3i; LH at 49; HD with
HOLDC = HOLD_CYCLES - 1 - j at 50 + j; the next position's LL step at T_POS. -/
def Obligations.PositionTimetable : Prop :=
  ∀ s : State, s.ph = .ll → noResetFor Config.tPos s →
    (∀ i, i < 16 →
      (∃ t, Host.Core.run core (1 + 3 * i) s = .next t ∧ t.ph = .cl ∧ t.bitc.toNat = 15 - i ∧ t.pos = s.pos) ∧
      (∃ t, Host.Core.run core (2 + 3 * i) s = .next t ∧ t.ph = .ds ∧ t.bitc.toNat = 15 - i ∧ t.pos = s.pos) ∧
      (∃ t, Host.Core.run core (3 + 3 * i) s = .next t ∧ t.ph = .ch ∧ t.bitc.toNat = 15 - i ∧ t.pos = s.pos)) ∧
    (∃ t, Host.Core.run core 49 s = .next t ∧ t.ph = .lh ∧ t.pos = s.pos) ∧
    (∀ j, j < Config.holdCycles → ∃ t, Host.Core.run core (50 + j) s = .next t ∧ t.ph = .hd ∧ t.pos = s.pos ∧
      t.holdc.toNat = Config.holdCycles - 1 - j) ∧
    (∃ t, Host.Core.run core Config.tPos s = .next t ∧ t.ph = .ll ∧ t.pos = s.pos + 1#2)

/-- 20_memory.md R56, R58, R66: from any LL step, whatever the chain held, 48 steps shift the whole word in, EOUT keeps its value up to
the LH step, and the LH step commits WORD. -/
def Obligations.PositionShiftsItsWordThenCommits : Prop :=
  ∀ s : State, s.ph = .ll → noResetFor 50 s →
    (∀ k, k ≤ 49 → ∃ t, Host.Core.run core k s = .next t ∧ t.eout = s.eout) ∧
    (∃ t, Host.Core.run core 49 s = .next t ∧ t.ph = .lh ∧ t.esr = word (if s.pos = 0#2 then s.quadIn else s.q) s.pos) ∧
    (∃ t, Host.Core.run core 50 s = .next t ∧ t.ph = .hd ∧ t.eout = word (if s.pos = 0#2 then s.quadIn else s.q) s.pos)

/-- 42_sequencer.md R150, 30_encoding.md R97: the trace of a position is POSITION p WORD(q, p). -/
def Obligations.PositionTraceIsThePseudoOperation : Prop :=
  ∀ s : State, s.ph = .ll → noResetFor Config.tPos s →
    traceOf Config.tPos s = positionTokens s.pos (word (if s.pos = 0#2 then s.quadIn else s.q) s.pos)

/-- 42_sequencer.md R150, R154, 30_encoding.md R97: the trace of a frame is FRAME of the four words of the quad that stood on QUAD_IN at
its first step, whatever the host does to QUAD_IN during the frame. -/
def Obligations.FrameTraceShowsTheCapturedQuad : Prop :=
  ∀ s : State, s.ph = .ll → s.pos = 0#2 → noResetFor Config.tFrame s →
    traceOf Config.tFrame s =
      frameTokens (word s.quadIn 0) (word s.quadIn 1) (word s.quadIn 2) (word s.quadIn 3)

/-- 42_sequencer.md R154: position p of a frame is committed by the step at offset p * T_POS + 49 and stays on the display for T_POS
steps; what is committed is WORD of the quad captured at the frame's first step. -/
def Obligations.FrameCommitsTheCapturedQuad : Prop :=
  ∀ (s : State) (p : Position) (j : Nat), s.ph = .ll → s.pos = 0#2 → j < Config.tPos →
    noResetFor (p.toNat * Config.tPos + 50 + j) s →
    ∃ t, Host.Core.run core (p.toNat * Config.tPos + 50 + j) s = .next t ∧ t.eout = word s.quadIn p

/-- 43_host_reference.md R177, R179, R182 with 42_sequencer.md R154 and 41_digit_select.md R129: a frame that captures the host's
time-mode quad displays the digits of MM and SS on positions 0 to 3, with the point on position 2 only. -/
def Obligations.FrameDisplaysTheHostsClock : Prop :=
  ∀ (s : State) (total : Nat) (p : Position), s.ph = .ll → s.pos = 0#2 → total < Config.secondsMod →
    s.quadIn = formatTime total → noResetFor (p.toNat * Config.tPos + 50) s →
    ∃ t, Host.Core.run core (p.toNat * Config.tPos + 50) s = .next t ∧
      readWord t.eout = some ⟨p, decide (p = 2#2),
        some (if p = 0#2 then total / 600 else if p = 1#2 then total / 60 % 10
          else if p = 2#2 then total % 60 / 10 else total % 60 % 10)⟩

-- The host

/-- 00_scope.md R8, 43_host_reference.md: nothing of the outside world, neither a list of events nor a whole interval with the main
loop's part in it, writes the block or the display chain. -/
def Obligations.EventsLeaveTheBlockAndTheChainAlone : Prop :=
  (∀ s t : State, (t = advanceWorld s ∨ ∃ es, t = applyEvents s es) →
    t.pos = s.pos ∧ t.ph = s.ph ∧ t.bitc = s.bitc ∧ t.holdc = s.holdc ∧ t.q = s.q ∧ t.latch = s.latch ∧ t.sclk = s.sclk ∧
    t.data = s.data ∧ t.esr = s.esr ∧ t.eout = s.eout ∧ t.draws = s.draws) ∧
  (∀ (s : State) (es : List Event), (applyEvents s es).schedule = s.schedule ∧ (applyEvents s es).samples = s.samples)

/-- log 7 (the model's own schedule) and log 2 (the main loop): between two steps exactly the first interval's events happen, in their
order, with none left nothing; and, while the main loop runs, before a capture it begins its pass before them and has ended it after
them. -/
def Obligations.ScheduleAdvancesOneIntervalPerStep : Prop :=
  ∀ s : State,
    (¬(s.ph = .ll ∧ s.pos = 0#2) ∨ (s.loop = false ∧ Event.loopStart ∉ s.schedule.headD []) →
      advanceWorld s = applyEvents { s with schedule := s.schedule.tail } (s.schedule.headD [])) ∧
    (s.schedule = [] → s.loop = false → advanceWorld s = s) ∧
    (s.ph = .ll → s.pos = 0#2 → s.loop = true →
      advanceWorld s = (applyEvents { s with schedule := s.schedule.tail, pass := .idle } (s.schedule.headD [])).finishPass)

/-- 43_host_reference.md R182, R183, R184: while the main loop runs, the QUAD_IN that a capture takes is what one formatter pass made of
the host's cells since the step before the capture: of the DisplayMode found after some events of that interval and the ElapsedSeconds
found after the same or some more of them, each a whole value, and the seconds as the tick handler then running leaves them: on the
single core the loop waits for it (log 9). (An interval in which another host drives the lines is not meant.) -/
def Obligations.MainLoopPassPrecedesEveryCapture : Prop :=
  ∀ s : State, s.loop = true → (∀ q, Event.drive q ∉ s.schedule.headD []) → ∃ t, step s = .next t ∧ t.loop = true ∧
    (t.ph = .ll → t.pos = 0#2 → t.pass = .done ∧ ∃ (i j : Nat) (v : Volts), i ≤ j ∧ j ≤ (s.schedule.headD []).length ∧
      t.quadIn = formatQuad (applyEvents s ((s.schedule.headD []).take i)).mode
        (applyEvents s ((s.schedule.headD []).take j)).settledSeconds v)

/-- 43_host_reference.md R182, R183: while the main loop runs, a change of a shared cell made in a frame shows in the next one: position p
of the next frame commits the word of a quad formatted from the cells as they stand at the frame's last step `u`, or as the events of
the one interval between that step and the capture leave them, a tick handler then running having ended (R184, log 9). For p = 0 it is the frame's first commit. -/
def Obligations.CellChangesShowInTheNextFrame : Prop :=
  ∀ (s : State) (p : Position), s.loop = true → s.ph = .ll → s.pos = 0#2 →
    noResetFor (Config.tFrame + (p.toNat * Config.tPos + 50)) s → (∀ es ∈ s.schedule, ∀ q, Event.drive q ∉ es) →
    ∃ u t, Host.Core.run core (Config.tFrame - 1) s = .next u ∧
      Host.Core.run core (Config.tFrame + (p.toNat * Config.tPos + 50)) s = .next t ∧
      ∃ (i j : Nat) (v : Volts), i ≤ j ∧ j ≤ (u.schedule.headD []).length ∧
        t.eout = word (formatQuad (applyEvents u ((u.schedule.headD []).take i)).mode
          (applyEvents u ((u.schedule.headD []).take j)).settledSeconds v) p

/-- 43_host_reference.md R171: an uninterrupted tick increments ElapsedSeconds modulo 6000; k ticks from n give (n + k) mod 6000, so
6000 ticks from 0 return to 0. -/
def Obligations.TicksCountModuloSixThousand : Prop :=
  (∀ s : State, s.tickSeen = none → applyEvent s .tick = { s with elapsed := (s.elapsed + 1) % 6000 }) ∧
  (∀ (s : State) (k : Nat), s.tickSeen = none → s.elapsed < 6000 →
    (applyEvents s (List.replicate k .tick)).elapsed = (s.elapsed + k) % 6000)

/-- 43_host_reference.md R172, R173, R174: the three button handlers, each writing its one cell, whatever that held; of a run of edges
the last decides. -/
def Obligations.ButtonHandlersWriteTheirCells : Prop :=
  (∀ (s : State) (es : List Event), (applyEvents s (es ++ [.modeEnter])).mode = .voltage ∧
    (applyEvents s (es ++ [.modeExit])).mode = .time) ∧
  ∀ s : State, applyEvent s .resetButton = { s with elapsed := 0 } ∧ applyEvent s .modeEnter = { s with mode := .voltage } ∧
    applyEvent s .modeExit = { s with mode := .time } ∧ (applyEvents s [.modeEnter, .modeExit]).mode = .time

/-- 43_host_reference.md R175, 90_conflicts.md C9, U9: a button reset inside the tick handler's increment is lost; before or after it, it
is kept. The main loop never sees the half-done tick: a pass in it shows what the tick handler leaves (R184, log 9). -/
def Obligations.ResetInsideATickIsLost : Prop :=
  ∀ s : State, (applyEvents s [.tickRead, .resetButton, .tick]).elapsed = (s.settledSeconds + 1) % 6000 ∧
    (s.tickSeen = none → s.settledSeconds = s.elapsed) ∧
    (∀ n, s.tickSeen = some n → s.settledSeconds = (n + 1) % 6000) ∧
    (∀ v, s.mode = .time → (applyEvents s [.tickRead, .resetButton, .modeRead, .valueRead v, .present v]).quadIn =
      formatTime ((s.settledSeconds + 1) % 6000)) ∧
    (applyEvents s [.tickRead, .tick, .resetButton]).elapsed = 0 ∧
    (s.tickSeen = none → (applyEvents s [.resetButton, .tick]).elapsed = 1)

/-- 43_host_reference.md R176, D19: whatever the tie rule, round(volt * 100) is an integer within 0.5 of volt * 100. -/
def Obligations.RoundingStaysWithinOneHalf : Prop :=
  ∀ v : Volts, 2 * (100 * v.num) ≤ (2 * roundCentivolts v + 1) * (v.denPred + 1) ∧
    2 * roundCentivolts v * (v.denPred + 1) ≤ 2 * (100 * v.num) + (v.denPred + 1)

/-- 43_host_reference.md R181: the formatter's two invariants. -/
def Obligations.FormatterDigitsGiveTheValueBack : Prop :=
  (∀ val, val ≤ 330 →
    (formatVoltage val).d0.toNat * 100 + (formatVoltage val).d1.toNat * 10 + (formatVoltage val).d2.toNat = val ∧
    (formatVoltage val).d3 = 15 ∧ (formatVoltage val).dp = 0b001) ∧
  (∀ v : Volts, centivolts v = min (roundCentivolts v) 330) ∧
  (∀ total, total < 6000 →
    ((formatTime total).d0.toNat * 10 + (formatTime total).d1.toNat) * 60 +
      ((formatTime total).d2.toNat * 10 + (formatTime total).d3.toNat) = total ∧ (formatTime total).dp = 0b100)

/-- 43_host_reference.md R178, R185: no undefined digit ever reaches the encoder, in either mode and for every sample. -/
def Obligations.FormatterNeverGivesAnUndefinedDigit : Prop :=
  ∀ (m : DisplayMode) (total : Nat) (v : Volts), total < 6000 →
    ∀ p : Position, (digit (formatQuad m total v) p).toNat ≤ 9 ∨ (p = 3#2 ∧ m = .voltage ∧ digit (formatQuad m total v) p = 15)

/-- 43_host_reference.md R176 to R180, R182, R184: a formatter pass puts the quad of the mode it read on QUAD_IN, all 19 bits at once,
and changes nothing else, after the tick handler that has begun has ended; a pass preempted after its read of DisplayMode, and again
between its read of the second value and the write to the bus, keeps the mode and the value it read; the main loop's pass is such a
pass, with a sample in [0, 3.3] volts; and whatever the main loop does while a tick handler has begun, it does after that has ended. -/
def Obligations.FormatterPassDrivesTheBus : Prop :=
  (∀ (s : State) (v : Volts), s.pass = .idle ∨ s.pass = .done → applyEvent s (.present v) = { s with
    quadIn := if s.mode = .voltage then formatVoltage (centivolts v) else formatTime s.settledSeconds,
    pass := .done, elapsed := s.settledSeconds, tickSeen := none }) ∧
  (∀ (s : State) (v w : Volts) (es fs : List Event),
    (∀ e ∈ es ++ fs, e = .tickRead ∨ e = .tick ∨ e = .resetButton ∨ e = .modeEnter ∨ e = .modeExit) →
    (applyEvents s (.modeRead :: (es ++ .valueRead v :: (fs ++ [.present w])))).quadIn =
      if s.mode = .voltage then formatVoltage (centivolts v)
      else formatTime (applyEvents s (.modeRead :: es)).settledSeconds) ∧
  (∀ s : State, s.pass = .idle → ∃ v : Volts, v.wellFormed = true ∧ s.finishPass = { s with
    quadIn := formatQuad s.mode s.settledSeconds v, pass := .done, elapsed := s.settledSeconds, tickSeen := none,
    samples := s.samples + 1 }) ∧
  (∀ (s : State) (n : Nat), s.tickSeen = some n →
    (∀ e, e = .modeRead ∨ (∃ v, e = .valueRead v) ∨ (∃ v, e = .present v) ∨ e = .loopStart →
      applyEvent s e = applyEvent (applyEvent s .tick) e ∧ (applyEvent s e).tickSeen = none) ∧
    (s.pass ≠ .done → s.finishPass = (applyEvent s .tick).finishPass ∧ s.finishPass.tickSeen = none))
end

