-- ==== Sys2Proof/Laws/Counters.lean ====
section
/-! SUPPORT. The hold counter HOLDC: its width, the value it is loaded with, and counting down (spec/00_scope.md R5, spec/42_sequencer.md R145, R146, R155). -/

namespace Sys2Proof.Machine

theorem holdW_pos : 1 ≤ Config.holdW := le_max_left _ _

/-- HOLD_CYCLES values fit in HOLD_W bits (00_scope.md R5). -/
theorem holdCycles_le_two_pow : Config.holdCycles ≤ 2 ^ Config.holdW :=
  (Nat.le_pow_clog (by decide) _).trans (Nat.pow_le_pow_right (by decide) (le_max_right _ _))

/-- Two values fit in HOLD_W bits at least. -/
theorem one_lt_two_pow_holdW : 1 < 2 ^ Config.holdW :=
  lt_of_lt_of_le (by decide : 1 < 2 ^ 1) (Nat.pow_le_pow_right (by decide) holdW_pos)

/-- The load does not wrap: HOLDC holds HOLD_CYCLES - 1 itself (42_sequencer.md R145). -/
@[simp] theorem holdLoad_toNat : holdLoad.toNat = Config.holdCycles - 1 := by
  have : Config.holdCycles - 1 < 2 ^ Config.holdW :=
    lt_of_lt_of_le (Nat.sub_lt (Nat.succ_pos _) Nat.one_pos) holdCycles_le_two_pow
  simp [holdLoad, Nat.mod_eq_of_lt this]

@[simp] theorem countDown_toNat (c : BitVec Config.holdW) : (countDown c).toNat = c.toNat - 1 := by
  simp [countDown]

/-- Where HOLDC is not 0, counting down is the subtraction of HOLD_W bits (42_sequencer.md R146). -/
theorem countDown_eq {c : BitVec Config.holdW} (h : c ≠ 0#Config.holdW) : countDown c = c - 1#Config.holdW := by
  have h1 : (1#Config.holdW).toNat = 1 := by simp [Nat.mod_eq_of_lt one_lt_two_pow_holdW]
  have h0 : c.toNat ≠ 0 := fun e => h (by simpa using BitVec.eq_of_toNat_eq (by simpa using e))
  apply BitVec.eq_of_toNat_eq
  rw [countDown_toNat, BitVec.toNat_sub_of_le (by rw [BitVec.le_def, h1]; omega), h1]

end Sys2Proof.Machine
end

