-- ==== Sys2Proof/Laws/Decode.lean ====
section
/-! SUPPORT. The packing of QUAD_IN as a number and bit by bit (spec/30_encoding.md R83). -/

namespace Sys2Proof

/-- Appending two bit vectors, as a number. -/
theorem append_toNat {m n : Nat} (a : BitVec m) (b : BitVec n) : (a ++ b).toNat = a.toNat * 2 ^ n + b.toNat := by
  rw [BitVec.toNat_append, ← Nat.shiftLeft_add_eq_or_of_lt b.isLt, Nat.shiftLeft_eq]

/-- QUAD_IN as a number: each line stands in the bits R83 gives it. -/
theorem pack_toNat (q : Quad) :
    q.pack.toNat = (((q.dp.toNat * 2 ^ 4 + q.d3.toNat) * 2 ^ 4 + q.d2.toNat) * 2 ^ 4 + q.d1.toNat) * 2 ^ 4 + q.d0.toNat := by
  refine (append_toNat (q.dp ++ q.d3 ++ q.d2 ++ q.d1) q.d0).trans ?_
  rw [append_toNat, append_toNat, append_toNat]

/-- The lines of a packed value, as numbers. -/
theorem unpack_toNat (v : BitVec 19) :
    (Quad.unpack v).d0.toNat = v.toNat % 16 ∧ (Quad.unpack v).d1.toNat = v.toNat / 16 % 16 ∧
    (Quad.unpack v).d2.toNat = v.toNat / 256 % 16 ∧ (Quad.unpack v).d3.toNat = v.toNat / 4096 % 16 ∧
    (Quad.unpack v).dp.toNat = v.toNat / 65536 % 8 := by
  simp [Quad.unpack, BitVec.extractLsb'_toNat, Nat.shiftRight_eq_div_pow]

end Sys2Proof
end

