-- ==== Sys2Proof/Laws/Operands.lean ====
section
/-! SUPPORT. The serial word, bit by bit, and the values of the two ROMs. -/

namespace Sys2Proof.Machine

/-- Bits 15:8 of a serial word are the segment byte, bits 7:0 the select byte (30_encoding.md R86). -/
theorem serialWord_bit (a b : Byte) (i : Nat) :
    (serialWord a b).getLsbD i = if i < 8 then b.getLsbD i else a.getLsbD (i - 8) := by
  exact (BitVec.getLsbD_append (x := a) (y := b)).trans (by simp)

/-- Every bit of WORD(q, p) (41_digit_select.md R125). -/
theorem word_bit (q : Quad) (p : Position) (i : Nat) :
    (word q p).getLsbD i = if i < 8 then (sel p).getLsbD i else (enc (digit q p) (dpf q p)).getLsbD (i - 8) :=
  serialWord_bit _ _ _

/-- The row that the digit of the position addresses gives WORD(q, p) (30_encoding.md R92). -/
theorem wordWithSegRow_digit (q : Quad) (p : Position) : wordWithSegRow (digit q p) q p = word q p := rfl

/-- The row that the position addresses gives WORD(q, p) (30_encoding.md R92). -/
theorem wordWithSelRow_self (q : Quad) (p : Position) : wordWithSelRow p q p = word q p := rfl

/-- The last bit of the word is the last bit of the select byte (10_state.md R32, I5). -/
theorem word_bit_zero (q : Quad) (p : Position) : (word q p).getLsbD 0 = (sel p).getLsbD 0 :=
  word_bit q p 0

/-- The select byte has exactly one 1 among bits 3:0, the one of its position (30_encoding.md R85). -/
theorem sel_low_bit : ∀ p r : Position, (sel p).getLsbD r.toNat = decide (r = p) := by decide

end Sys2Proof.Machine
end

