-- ==== Sys2Proof/Laws/PerInstr.lean ====
section
/-! SUPPORT. The family DecodeEncode: per row of the opcode table, the decoder reads back what the encoder wrote. -/

namespace Sys2Proof.Laws.DecodeEncode

/-- Decoding the format and code of a row gives the row (spec/30_encoding.md R93). -/
def Statement (i : Instr) : Prop := decode (encode i).1 (encode i).2 = .ok i

theorem ll : Statement .ll := rfl
theorem cl : Statement .cl := rfl
theorem ds : Statement .ds := rfl
theorem ch : Statement .ch := rfl
theorem lh : Statement .lh := rfl
theorem hd : Statement .hd := rfl
theorem seg0 : Statement .seg0 := rfl
theorem seg1 : Statement .seg1 := rfl
theorem seg2 : Statement .seg2 := rfl
theorem seg3 : Statement .seg3 := rfl
theorem seg4 : Statement .seg4 := rfl
theorem seg5 : Statement .seg5 := rfl
theorem seg6 : Statement .seg6 := rfl
theorem seg7 : Statement .seg7 := rfl
theorem seg8 : Statement .seg8 := rfl
theorem seg9 : Statement .seg9 := rfl
theorem segU10 : Statement .segU10 := rfl
theorem segU11 : Statement .segU11 := rfl
theorem segU12 : Statement .segU12 := rfl
theorem segU13 : Statement .segU13 := rfl
theorem segU14 : Statement .segU14 := rfl
theorem segBlank : Statement .segBlank := rfl
theorem sel0 : Statement .sel0 := rfl
theorem sel1 : Statement .sel1 := rfl
theorem sel2 : Statement .sel2 := rfl
theorem sel3 : Statement .sel3 := rfl

end Sys2Proof.Laws.DecodeEncode
end

