-- ==== Sys2Proof/Laws/State.lean ====
section
/-! SUPPORT. One lemma per field of State per shared operation: what the operation leaves in the field. -/

namespace Sys2Proof.Machine

variable (s : State)

@[simp] theorem setLatch_pos (b : Bool) : (s.setLatch b).pos = s.pos := rfl
@[simp] theorem setLatch_ph (b : Bool) : (s.setLatch b).ph = s.ph := rfl
@[simp] theorem setLatch_bitc (b : Bool) : (s.setLatch b).bitc = s.bitc := rfl
@[simp] theorem setLatch_holdc (b : Bool) : (s.setLatch b).holdc = s.holdc := rfl
@[simp] theorem setLatch_q (b : Bool) : (s.setLatch b).q = s.q := rfl
@[simp] theorem setLatch_latch (b : Bool) : (s.setLatch b).latch = b := rfl
@[simp] theorem setLatch_sclk (b : Bool) : (s.setLatch b).sclk = s.sclk := rfl
@[simp] theorem setLatch_data (b : Bool) : (s.setLatch b).data = s.data := rfl
@[simp] theorem setLatch_rst (b : Bool) : (s.setLatch b).rst = s.rst := rfl
@[simp] theorem setLatch_quadIn (b : Bool) : (s.setLatch b).quadIn = s.quadIn := rfl
@[simp] theorem setLatch_esr (b : Bool) : (s.setLatch b).esr = s.esr := rfl
@[simp] theorem setLatch_eout (b : Bool) : (s.setLatch b).eout = s.eout := rfl
@[simp] theorem setLatch_elapsed (b : Bool) : (s.setLatch b).elapsed = s.elapsed := rfl
@[simp] theorem setLatch_mode (b : Bool) : (s.setLatch b).mode = s.mode := rfl
@[simp] theorem setLatch_tickSeen (b : Bool) : (s.setLatch b).tickSeen = s.tickSeen := rfl
@[simp] theorem setLatch_loop (b : Bool) : (s.setLatch b).loop = s.loop := rfl
@[simp] theorem setLatch_pass (b : Bool) : (s.setLatch b).pass = s.pass := rfl
@[simp] theorem setLatch_schedule (b : Bool) : (s.setLatch b).schedule = s.schedule := rfl
@[simp] theorem setLatch_draws (b : Bool) : (s.setLatch b).draws = s.draws := rfl
@[simp] theorem setLatch_samples (b : Bool) : (s.setLatch b).samples = s.samples := rfl

@[simp] theorem setSclk_pos (b : Bool) : (s.setSclk b).pos = s.pos := rfl
@[simp] theorem setSclk_ph (b : Bool) : (s.setSclk b).ph = s.ph := rfl
@[simp] theorem setSclk_bitc (b : Bool) : (s.setSclk b).bitc = s.bitc := rfl
@[simp] theorem setSclk_holdc (b : Bool) : (s.setSclk b).holdc = s.holdc := rfl
@[simp] theorem setSclk_q (b : Bool) : (s.setSclk b).q = s.q := rfl
@[simp] theorem setSclk_latch (b : Bool) : (s.setSclk b).latch = s.latch := rfl
@[simp] theorem setSclk_sclk (b : Bool) : (s.setSclk b).sclk = b := rfl
@[simp] theorem setSclk_data (b : Bool) : (s.setSclk b).data = s.data := rfl
@[simp] theorem setSclk_rst (b : Bool) : (s.setSclk b).rst = s.rst := rfl
@[simp] theorem setSclk_quadIn (b : Bool) : (s.setSclk b).quadIn = s.quadIn := rfl
@[simp] theorem setSclk_esr (b : Bool) : (s.setSclk b).esr = s.esr := rfl
@[simp] theorem setSclk_eout (b : Bool) : (s.setSclk b).eout = s.eout := rfl
@[simp] theorem setSclk_elapsed (b : Bool) : (s.setSclk b).elapsed = s.elapsed := rfl
@[simp] theorem setSclk_mode (b : Bool) : (s.setSclk b).mode = s.mode := rfl
@[simp] theorem setSclk_tickSeen (b : Bool) : (s.setSclk b).tickSeen = s.tickSeen := rfl
@[simp] theorem setSclk_loop (b : Bool) : (s.setSclk b).loop = s.loop := rfl
@[simp] theorem setSclk_pass (b : Bool) : (s.setSclk b).pass = s.pass := rfl
@[simp] theorem setSclk_schedule (b : Bool) : (s.setSclk b).schedule = s.schedule := rfl
@[simp] theorem setSclk_draws (b : Bool) : (s.setSclk b).draws = s.draws := rfl
@[simp] theorem setSclk_samples (b : Bool) : (s.setSclk b).samples = s.samples := rfl

@[simp] theorem setData_pos (b : Bool) : (s.setData b).pos = s.pos := rfl
@[simp] theorem setData_ph (b : Bool) : (s.setData b).ph = s.ph := rfl
@[simp] theorem setData_bitc (b : Bool) : (s.setData b).bitc = s.bitc := rfl
@[simp] theorem setData_holdc (b : Bool) : (s.setData b).holdc = s.holdc := rfl
@[simp] theorem setData_q (b : Bool) : (s.setData b).q = s.q := rfl
@[simp] theorem setData_latch (b : Bool) : (s.setData b).latch = s.latch := rfl
@[simp] theorem setData_sclk (b : Bool) : (s.setData b).sclk = s.sclk := rfl
@[simp] theorem setData_data (b : Bool) : (s.setData b).data = b := rfl
@[simp] theorem setData_rst (b : Bool) : (s.setData b).rst = s.rst := rfl
@[simp] theorem setData_quadIn (b : Bool) : (s.setData b).quadIn = s.quadIn := rfl
@[simp] theorem setData_esr (b : Bool) : (s.setData b).esr = s.esr := rfl
@[simp] theorem setData_eout (b : Bool) : (s.setData b).eout = s.eout := rfl
@[simp] theorem setData_elapsed (b : Bool) : (s.setData b).elapsed = s.elapsed := rfl
@[simp] theorem setData_mode (b : Bool) : (s.setData b).mode = s.mode := rfl
@[simp] theorem setData_tickSeen (b : Bool) : (s.setData b).tickSeen = s.tickSeen := rfl
@[simp] theorem setData_loop (b : Bool) : (s.setData b).loop = s.loop := rfl
@[simp] theorem setData_pass (b : Bool) : (s.setData b).pass = s.pass := rfl
@[simp] theorem setData_schedule (b : Bool) : (s.setData b).schedule = s.schedule := rfl
@[simp] theorem setData_draws (b : Bool) : (s.setData b).draws = s.draws := rfl
@[simp] theorem setData_samples (b : Bool) : (s.setData b).samples = s.samples := rfl

@[simp] theorem setPhase_pos (p : Phase) : (s.setPhase p).pos = s.pos := rfl
@[simp] theorem setPhase_ph (p : Phase) : (s.setPhase p).ph = p := rfl
@[simp] theorem setPhase_bitc (p : Phase) : (s.setPhase p).bitc = s.bitc := rfl
@[simp] theorem setPhase_holdc (p : Phase) : (s.setPhase p).holdc = s.holdc := rfl
@[simp] theorem setPhase_q (p : Phase) : (s.setPhase p).q = s.q := rfl
@[simp] theorem setPhase_latch (p : Phase) : (s.setPhase p).latch = s.latch := rfl
@[simp] theorem setPhase_sclk (p : Phase) : (s.setPhase p).sclk = s.sclk := rfl
@[simp] theorem setPhase_data (p : Phase) : (s.setPhase p).data = s.data := rfl
@[simp] theorem setPhase_rst (p : Phase) : (s.setPhase p).rst = s.rst := rfl
@[simp] theorem setPhase_quadIn (p : Phase) : (s.setPhase p).quadIn = s.quadIn := rfl
@[simp] theorem setPhase_esr (p : Phase) : (s.setPhase p).esr = s.esr := rfl
@[simp] theorem setPhase_eout (p : Phase) : (s.setPhase p).eout = s.eout := rfl
@[simp] theorem setPhase_elapsed (p : Phase) : (s.setPhase p).elapsed = s.elapsed := rfl
@[simp] theorem setPhase_mode (p : Phase) : (s.setPhase p).mode = s.mode := rfl
@[simp] theorem setPhase_tickSeen (p : Phase) : (s.setPhase p).tickSeen = s.tickSeen := rfl
@[simp] theorem setPhase_loop (p : Phase) : (s.setPhase p).loop = s.loop := rfl
@[simp] theorem setPhase_pass (p : Phase) : (s.setPhase p).pass = s.pass := rfl
@[simp] theorem setPhase_schedule (p : Phase) : (s.setPhase p).schedule = s.schedule := rfl
@[simp] theorem setPhase_draws (p : Phase) : (s.setPhase p).draws = s.draws := rfl
@[simp] theorem setPhase_samples (p : Phase) : (s.setPhase p).samples = s.samples := rfl

@[simp] theorem setBitc_pos (n : BitVec 4) : (s.setBitc n).pos = s.pos := rfl
@[simp] theorem setBitc_ph (n : BitVec 4) : (s.setBitc n).ph = s.ph := rfl
@[simp] theorem setBitc_bitc (n : BitVec 4) : (s.setBitc n).bitc = n := rfl
@[simp] theorem setBitc_holdc (n : BitVec 4) : (s.setBitc n).holdc = s.holdc := rfl
@[simp] theorem setBitc_q (n : BitVec 4) : (s.setBitc n).q = s.q := rfl
@[simp] theorem setBitc_latch (n : BitVec 4) : (s.setBitc n).latch = s.latch := rfl
@[simp] theorem setBitc_sclk (n : BitVec 4) : (s.setBitc n).sclk = s.sclk := rfl
@[simp] theorem setBitc_data (n : BitVec 4) : (s.setBitc n).data = s.data := rfl
@[simp] theorem setBitc_rst (n : BitVec 4) : (s.setBitc n).rst = s.rst := rfl
@[simp] theorem setBitc_quadIn (n : BitVec 4) : (s.setBitc n).quadIn = s.quadIn := rfl
@[simp] theorem setBitc_esr (n : BitVec 4) : (s.setBitc n).esr = s.esr := rfl
@[simp] theorem setBitc_eout (n : BitVec 4) : (s.setBitc n).eout = s.eout := rfl
@[simp] theorem setBitc_elapsed (n : BitVec 4) : (s.setBitc n).elapsed = s.elapsed := rfl
@[simp] theorem setBitc_mode (n : BitVec 4) : (s.setBitc n).mode = s.mode := rfl
@[simp] theorem setBitc_tickSeen (n : BitVec 4) : (s.setBitc n).tickSeen = s.tickSeen := rfl
@[simp] theorem setBitc_loop (n : BitVec 4) : (s.setBitc n).loop = s.loop := rfl
@[simp] theorem setBitc_pass (n : BitVec 4) : (s.setBitc n).pass = s.pass := rfl
@[simp] theorem setBitc_schedule (n : BitVec 4) : (s.setBitc n).schedule = s.schedule := rfl
@[simp] theorem setBitc_draws (n : BitVec 4) : (s.setBitc n).draws = s.draws := rfl
@[simp] theorem setBitc_samples (n : BitVec 4) : (s.setBitc n).samples = s.samples := rfl

@[simp] theorem setHoldc_pos (n : BitVec Config.holdW) : (s.setHoldc n).pos = s.pos := rfl
@[simp] theorem setHoldc_ph (n : BitVec Config.holdW) : (s.setHoldc n).ph = s.ph := rfl
@[simp] theorem setHoldc_bitc (n : BitVec Config.holdW) : (s.setHoldc n).bitc = s.bitc := rfl
@[simp] theorem setHoldc_holdc (n : BitVec Config.holdW) : (s.setHoldc n).holdc = n := rfl
@[simp] theorem setHoldc_q (n : BitVec Config.holdW) : (s.setHoldc n).q = s.q := rfl
@[simp] theorem setHoldc_latch (n : BitVec Config.holdW) : (s.setHoldc n).latch = s.latch := rfl
@[simp] theorem setHoldc_sclk (n : BitVec Config.holdW) : (s.setHoldc n).sclk = s.sclk := rfl
@[simp] theorem setHoldc_data (n : BitVec Config.holdW) : (s.setHoldc n).data = s.data := rfl
@[simp] theorem setHoldc_rst (n : BitVec Config.holdW) : (s.setHoldc n).rst = s.rst := rfl
@[simp] theorem setHoldc_quadIn (n : BitVec Config.holdW) : (s.setHoldc n).quadIn = s.quadIn := rfl
@[simp] theorem setHoldc_esr (n : BitVec Config.holdW) : (s.setHoldc n).esr = s.esr := rfl
@[simp] theorem setHoldc_eout (n : BitVec Config.holdW) : (s.setHoldc n).eout = s.eout := rfl
@[simp] theorem setHoldc_elapsed (n : BitVec Config.holdW) : (s.setHoldc n).elapsed = s.elapsed := rfl
@[simp] theorem setHoldc_mode (n : BitVec Config.holdW) : (s.setHoldc n).mode = s.mode := rfl
@[simp] theorem setHoldc_tickSeen (n : BitVec Config.holdW) : (s.setHoldc n).tickSeen = s.tickSeen := rfl
@[simp] theorem setHoldc_loop (n : BitVec Config.holdW) : (s.setHoldc n).loop = s.loop := rfl
@[simp] theorem setHoldc_pass (n : BitVec Config.holdW) : (s.setHoldc n).pass = s.pass := rfl
@[simp] theorem setHoldc_schedule (n : BitVec Config.holdW) : (s.setHoldc n).schedule = s.schedule := rfl
@[simp] theorem setHoldc_draws (n : BitVec Config.holdW) : (s.setHoldc n).draws = s.draws := rfl
@[simp] theorem setHoldc_samples (n : BitVec Config.holdW) : (s.setHoldc n).samples = s.samples := rfl

@[simp] theorem nextPos_pos : (s.nextPos).pos = s.pos + 1#2 := rfl
@[simp] theorem nextPos_ph : (s.nextPos).ph = s.ph := rfl
@[simp] theorem nextPos_bitc : (s.nextPos).bitc = s.bitc := rfl
@[simp] theorem nextPos_holdc : (s.nextPos).holdc = s.holdc := rfl
@[simp] theorem nextPos_q : (s.nextPos).q = s.q := rfl
@[simp] theorem nextPos_latch : (s.nextPos).latch = s.latch := rfl
@[simp] theorem nextPos_sclk : (s.nextPos).sclk = s.sclk := rfl
@[simp] theorem nextPos_data : (s.nextPos).data = s.data := rfl
@[simp] theorem nextPos_rst : (s.nextPos).rst = s.rst := rfl
@[simp] theorem nextPos_quadIn : (s.nextPos).quadIn = s.quadIn := rfl
@[simp] theorem nextPos_esr : (s.nextPos).esr = s.esr := rfl
@[simp] theorem nextPos_eout : (s.nextPos).eout = s.eout := rfl
@[simp] theorem nextPos_elapsed : (s.nextPos).elapsed = s.elapsed := rfl
@[simp] theorem nextPos_mode : (s.nextPos).mode = s.mode := rfl
@[simp] theorem nextPos_tickSeen : (s.nextPos).tickSeen = s.tickSeen := rfl
@[simp] theorem nextPos_loop : (s.nextPos).loop = s.loop := rfl
@[simp] theorem nextPos_pass : (s.nextPos).pass = s.pass := rfl
@[simp] theorem nextPos_schedule : (s.nextPos).schedule = s.schedule := rfl
@[simp] theorem nextPos_draws : (s.nextPos).draws = s.draws := rfl
@[simp] theorem nextPos_samples : (s.nextPos).samples = s.samples := rfl

@[simp] theorem sendBit_pos (w : SerialWord) : (s.sendBit w).pos = s.pos := rfl
@[simp] theorem sendBit_ph (w : SerialWord) : (s.sendBit w).ph = .ch := rfl
@[simp] theorem sendBit_bitc (w : SerialWord) : (s.sendBit w).bitc = s.bitc := rfl
@[simp] theorem sendBit_holdc (w : SerialWord) : (s.sendBit w).holdc = s.holdc := rfl
@[simp] theorem sendBit_q (w : SerialWord) : (s.sendBit w).q = s.q := rfl
@[simp] theorem sendBit_latch (w : SerialWord) : (s.sendBit w).latch = s.latch := rfl
@[simp] theorem sendBit_sclk (w : SerialWord) : (s.sendBit w).sclk = s.sclk := rfl
@[simp] theorem sendBit_data (w : SerialWord) : (s.sendBit w).data = w.getLsbD s.bitc.toNat := rfl
@[simp] theorem sendBit_rst (w : SerialWord) : (s.sendBit w).rst = s.rst := rfl
@[simp] theorem sendBit_quadIn (w : SerialWord) : (s.sendBit w).quadIn = s.quadIn := rfl
@[simp] theorem sendBit_esr (w : SerialWord) : (s.sendBit w).esr = s.esr := rfl
@[simp] theorem sendBit_eout (w : SerialWord) : (s.sendBit w).eout = s.eout := rfl
@[simp] theorem sendBit_elapsed (w : SerialWord) : (s.sendBit w).elapsed = s.elapsed := rfl
@[simp] theorem sendBit_mode (w : SerialWord) : (s.sendBit w).mode = s.mode := rfl
@[simp] theorem sendBit_tickSeen (w : SerialWord) : (s.sendBit w).tickSeen = s.tickSeen := rfl
@[simp] theorem sendBit_loop (w : SerialWord) : (s.sendBit w).loop = s.loop := rfl
@[simp] theorem sendBit_pass (w : SerialWord) : (s.sendBit w).pass = s.pass := rfl
@[simp] theorem sendBit_schedule (w : SerialWord) : (s.sendBit w).schedule = s.schedule := rfl
@[simp] theorem sendBit_draws (w : SerialWord) : (s.sendBit w).draws = s.draws := rfl
@[simp] theorem sendBit_samples (w : SerialWord) : (s.sendBit w).samples = s.samples := rfl

@[simp] theorem resetBlock_pos : (s.resetBlock).pos = 0#2 := rfl
@[simp] theorem resetBlock_ph : (s.resetBlock).ph = .ll := rfl
@[simp] theorem resetBlock_bitc : (s.resetBlock).bitc = 0#4 := rfl
@[simp] theorem resetBlock_holdc : (s.resetBlock).holdc = 0#Config.holdW := rfl
@[simp] theorem resetBlock_q : (s.resetBlock).q = Config.resetQuad s.draws := rfl
@[simp] theorem resetBlock_latch : (s.resetBlock).latch = false := rfl
@[simp] theorem resetBlock_sclk : (s.resetBlock).sclk = false := rfl
@[simp] theorem resetBlock_data : (s.resetBlock).data = false := rfl
@[simp] theorem resetBlock_rst : (s.resetBlock).rst = s.rst := rfl
@[simp] theorem resetBlock_quadIn : (s.resetBlock).quadIn = s.quadIn := rfl
@[simp] theorem resetBlock_esr : (s.resetBlock).esr = s.esr := rfl
@[simp] theorem resetBlock_eout : (s.resetBlock).eout = s.eout := rfl
@[simp] theorem resetBlock_elapsed : (s.resetBlock).elapsed = s.elapsed := rfl
@[simp] theorem resetBlock_mode : (s.resetBlock).mode = s.mode := rfl
@[simp] theorem resetBlock_tickSeen : (s.resetBlock).tickSeen = s.tickSeen := rfl
@[simp] theorem resetBlock_loop : (s.resetBlock).loop = s.loop := rfl
@[simp] theorem resetBlock_pass : (s.resetBlock).pass = s.pass := rfl
@[simp] theorem resetBlock_schedule : (s.resetBlock).schedule = s.schedule := rfl
@[simp] theorem resetBlock_draws : (s.resetBlock).draws = s.draws + 1 := rfl
@[simp] theorem resetBlock_samples : (s.resetBlock).samples = s.samples := rfl

@[simp] theorem capture_pos : (s.capture).pos = s.pos := by
  unfold State.capture; split <;> simp
@[simp] theorem capture_ph : (s.capture).ph = s.ph := by
  unfold State.capture; split <;> simp
@[simp] theorem capture_bitc : (s.capture).bitc = s.bitc := by
  unfold State.capture; split <;> simp
@[simp] theorem capture_holdc : (s.capture).holdc = s.holdc := by
  unfold State.capture; split <;> simp
@[simp] theorem capture_q : (s.capture).q = if s.pos = 0#2 then s.quadIn else s.q := by
  unfold State.capture; split <;> simp_all
@[simp] theorem capture_latch : (s.capture).latch = s.latch := by
  unfold State.capture; split <;> simp
@[simp] theorem capture_sclk : (s.capture).sclk = s.sclk := by
  unfold State.capture; split <;> simp
@[simp] theorem capture_data : (s.capture).data = s.data := by
  unfold State.capture; split <;> simp
@[simp] theorem capture_rst : (s.capture).rst = s.rst := by
  unfold State.capture; split <;> simp
@[simp] theorem capture_quadIn : (s.capture).quadIn = s.quadIn := by
  unfold State.capture; split <;> simp
@[simp] theorem capture_esr : (s.capture).esr = s.esr := by
  unfold State.capture; split <;> simp
@[simp] theorem capture_eout : (s.capture).eout = s.eout := by
  unfold State.capture; split <;> simp
@[simp] theorem capture_elapsed : (s.capture).elapsed = s.elapsed := by
  unfold State.capture; split <;> simp
@[simp] theorem capture_mode : (s.capture).mode = s.mode := by
  unfold State.capture; split <;> simp
@[simp] theorem capture_tickSeen : (s.capture).tickSeen = s.tickSeen := by
  unfold State.capture; split <;> simp
@[simp] theorem capture_loop : (s.capture).loop = s.loop := by
  unfold State.capture; split <;> simp
@[simp] theorem capture_pass : (s.capture).pass = s.pass := by
  unfold State.capture; split <;> simp
@[simp] theorem capture_schedule : (s.capture).schedule = s.schedule := by
  unfold State.capture; split <;> simp
@[simp] theorem capture_draws : (s.capture).draws = s.draws := by
  unfold State.capture; split <;> simp
@[simp] theorem capture_samples : (s.capture).samples = s.samples := by
  unfold State.capture; split <;> simp

@[simp] theorem endBit_pos : (s.endBit).pos = s.pos := by
  unfold State.endBit; split <;> simp
@[simp] theorem endBit_ph : (s.endBit).ph = if s.bitc = 0#4 then .lh else .cl := by
  unfold State.endBit; split <;> simp_all
@[simp] theorem endBit_bitc : (s.endBit).bitc = if s.bitc = 0#4 then 0#4 else s.bitc - 1#4 := by
  unfold State.endBit; split <;> simp_all
@[simp] theorem endBit_holdc : (s.endBit).holdc = s.holdc := by
  unfold State.endBit; split <;> simp
@[simp] theorem endBit_q : (s.endBit).q = s.q := by
  unfold State.endBit; split <;> simp
@[simp] theorem endBit_latch : (s.endBit).latch = s.latch := by
  unfold State.endBit; split <;> simp
@[simp] theorem endBit_sclk : (s.endBit).sclk = s.sclk := by
  unfold State.endBit; split <;> simp
@[simp] theorem endBit_data : (s.endBit).data = s.data := by
  unfold State.endBit; split <;> simp
@[simp] theorem endBit_rst : (s.endBit).rst = s.rst := by
  unfold State.endBit; split <;> simp
@[simp] theorem endBit_quadIn : (s.endBit).quadIn = s.quadIn := by
  unfold State.endBit; split <;> simp
@[simp] theorem endBit_esr : (s.endBit).esr = s.esr := by
  unfold State.endBit; split <;> simp
@[simp] theorem endBit_eout : (s.endBit).eout = s.eout := by
  unfold State.endBit; split <;> simp
@[simp] theorem endBit_elapsed : (s.endBit).elapsed = s.elapsed := by
  unfold State.endBit; split <;> simp
@[simp] theorem endBit_mode : (s.endBit).mode = s.mode := by
  unfold State.endBit; split <;> simp
@[simp] theorem endBit_tickSeen : (s.endBit).tickSeen = s.tickSeen := by
  unfold State.endBit; split <;> simp
@[simp] theorem endBit_loop : (s.endBit).loop = s.loop := by
  unfold State.endBit; split <;> simp
@[simp] theorem endBit_pass : (s.endBit).pass = s.pass := by
  unfold State.endBit; split <;> simp
@[simp] theorem endBit_schedule : (s.endBit).schedule = s.schedule := by
  unfold State.endBit; split <;> simp
@[simp] theorem endBit_draws : (s.endBit).draws = s.draws := by
  unfold State.endBit; split <;> simp
@[simp] theorem endBit_samples : (s.endBit).samples = s.samples := by
  unfold State.endBit; split <;> simp

@[simp] theorem holdStep_pos : (s.holdStep).pos = if s.holdc = 0#Config.holdW then s.pos + 1#2 else s.pos := by
  unfold State.holdStep; split <;> simp_all
@[simp] theorem holdStep_ph : (s.holdStep).ph = if s.holdc = 0#Config.holdW then .ll else .hd := by
  unfold State.holdStep; split <;> simp_all
@[simp] theorem holdStep_bitc : (s.holdStep).bitc = s.bitc := by
  unfold State.holdStep; split <;> simp
@[simp] theorem holdStep_holdc : (s.holdStep).holdc = if s.holdc = 0#Config.holdW then 0#Config.holdW else countDown s.holdc := by
  unfold State.holdStep; split <;> simp_all
@[simp] theorem holdStep_q : (s.holdStep).q = s.q := by
  unfold State.holdStep; split <;> simp
@[simp] theorem holdStep_latch : (s.holdStep).latch = s.latch := by
  unfold State.holdStep; split <;> simp
@[simp] theorem holdStep_sclk : (s.holdStep).sclk = s.sclk := by
  unfold State.holdStep; split <;> simp
@[simp] theorem holdStep_data : (s.holdStep).data = s.data := by
  unfold State.holdStep; split <;> simp
@[simp] theorem holdStep_rst : (s.holdStep).rst = s.rst := by
  unfold State.holdStep; split <;> simp
@[simp] theorem holdStep_quadIn : (s.holdStep).quadIn = s.quadIn := by
  unfold State.holdStep; split <;> simp
@[simp] theorem holdStep_esr : (s.holdStep).esr = s.esr := by
  unfold State.holdStep; split <;> simp
@[simp] theorem holdStep_eout : (s.holdStep).eout = s.eout := by
  unfold State.holdStep; split <;> simp
@[simp] theorem holdStep_elapsed : (s.holdStep).elapsed = s.elapsed := by
  unfold State.holdStep; split <;> simp
@[simp] theorem holdStep_mode : (s.holdStep).mode = s.mode := by
  unfold State.holdStep; split <;> simp
@[simp] theorem holdStep_tickSeen : (s.holdStep).tickSeen = s.tickSeen := by
  unfold State.holdStep; split <;> simp
@[simp] theorem holdStep_loop : (s.holdStep).loop = s.loop := by
  unfold State.holdStep; split <;> simp
@[simp] theorem holdStep_pass : (s.holdStep).pass = s.pass := by
  unfold State.holdStep; split <;> simp
@[simp] theorem holdStep_schedule : (s.holdStep).schedule = s.schedule := by
  unfold State.holdStep; split <;> simp
@[simp] theorem holdStep_draws : (s.holdStep).draws = s.draws := by
  unfold State.holdStep; split <;> simp
@[simp] theorem holdStep_samples : (s.holdStep).samples = s.samples := by
  unfold State.holdStep; split <;> simp

/-- Two states with equal fields are equal (10_state.md R39, with the environment's fields). -/
theorem State.ext_fields {s t : State} (pos : s.pos = t.pos) (ph : s.ph = t.ph) (bitc : s.bitc = t.bitc) (holdc : s.holdc = t.holdc)
    (q : s.q = t.q) (latch : s.latch = t.latch) (sclk : s.sclk = t.sclk) (data : s.data = t.data) (rst : s.rst = t.rst)
    (quadIn : s.quadIn = t.quadIn) (esr : s.esr = t.esr) (eout : s.eout = t.eout) (elapsed : s.elapsed = t.elapsed)
    (mode : s.mode = t.mode) (tickSeen : s.tickSeen = t.tickSeen) (loop : s.loop = t.loop)
    (pass : s.pass = t.pass) (schedule : s.schedule = t.schedule) (draws : s.draws = t.draws) (samples : s.samples = t.samples) : s = t := by
  cases s; cases t; simp_all

end Sys2Proof.Machine
end

