-- ==== Sys2Proof/Laws/World.lean ====
section
/-! SUPPORT. What the outside world and the display chain leave alone in State. -/

namespace Sys2Proof.Machine

/-- The fields that no event of the outside world writes: the block and the display chain (00_scope.md R8: the sequencer is the
only writer of SSMUX's state). -/
structure SameBlock (s t : State) : Prop where
  pos : t.pos = s.pos
  ph : t.ph = s.ph
  bitc : t.bitc = s.bitc
  holdc : t.holdc = s.holdc
  q : t.q = s.q
  latch : t.latch = s.latch
  sclk : t.sclk = s.sclk
  data : t.data = s.data
  esr : t.esr = s.esr
  eout : t.eout = s.eout
  draws : t.draws = s.draws

theorem SameBlock.refl (s : State) : SameBlock s s := by constructor <;> rfl

theorem SameBlock.trans {s t u : State} (h : SameBlock s t) (k : SameBlock t u) : SameBlock s u :=
  ⟨k.pos.trans h.pos, k.ph.trans h.ph, k.bitc.trans h.bitc, k.holdc.trans h.holdc, k.q.trans h.q, k.latch.trans h.latch,
    k.sclk.trans h.sclk, k.data.trans h.data, k.esr.trans h.esr, k.eout.trans h.eout, k.draws.trans h.draws⟩

theorem applyEvent_sameBlock (s : State) (e : Event) : SameBlock s (applyEvent s e) := by
  cases e <;> (constructor <;> rfl)

/-- With no tick handler begun, ending it changes nothing. -/
theorem endTick_of_none {s : State} (h : s.tickSeen = none) : s.endTick = s := by
  cases s
  simp_all [State.endTick, State.settledSeconds]

/-- Ending a tick handler that has begun is its write (43_host_reference.md R175). -/
theorem endTick_of_some {s : State} {n : Nat} (h : s.tickSeen = some n) : s.endTick = applyEvent s .tick := by
  simp [State.endTick, State.settledSeconds, applyEvent, h]

/-- No event consumes the schedule. -/
@[simp] theorem applyEvent_schedule (s : State) (e : Event) : (applyEvent s e).schedule = s.schedule := by
  cases e <;> rfl

theorem applyEvents_sameBlock (es : List Event) : ∀ s : State, SameBlock s (applyEvents s es) := by
  induction es with
  | nil => exact SameBlock.refl
  | cons e es ih => exact fun s => (applyEvent_sameBlock s e).trans (ih _)

@[simp] theorem applyEvents_schedule (es : List Event) : ∀ s : State, (applyEvents s es).schedule = s.schedule := by
  induction es with
  | nil => exact fun _ => rfl
  | cons e es ih => exact fun s => (ih _).trans (applyEvent_schedule s e)

/-- The main loop's part is done or left out: what holds of both holds of it. -/
theorem loopPart_cases {P : State → Prop} {s : State} {f : State → State} (hf : P (f s)) (hs : P s) : P (s.loopPart f) := by
  unfold State.loopPart
  split <;> assumption

/-- While the main loop runs, its part is done before a capture. -/
theorem loopPart_pos {s : State} {f : State → State} (hl : s.loop = true) (hp : s.ph = .ll) (h0 : s.pos = 0#2) :
    s.loopPart f = f s := by
  simp [State.loopPart, State.atFrame, hl, hp, h0]

/-- The main loop has no part in an interval that no capture follows. -/
theorem loopPart_neg {s : State} {f : State → State} (h : ¬(s.ph = .ll ∧ s.pos = 0#2)) : s.loopPart f = s := by
  simp [State.loopPart, State.atFrame]
  tauto

theorem beginPass_sameBlock (s : State) : SameBlock s s.beginPass := by constructor <;> rfl

theorem finishPass_sameBlock (s : State) : SameBlock s s.finishPass := by
  unfold State.finishPass
  split <;> (constructor <;> rfl)

@[simp] theorem finishPass_schedule (s : State) : s.finishPass.schedule = s.schedule := by
  unfold State.finishPass
  split <;> rfl

@[simp] theorem finishPass_rst (s : State) : s.finishPass.rst = s.rst := by
  unfold State.finishPass
  split <;> rfl

/-- The pass ends with the quad of the pass on the bus (43_host_reference.md R182). -/
theorem finishPass_quadIn (s : State) (h : s.pass ≠ .done) :
    s.finishPass.quadIn = s.endTick.passQuad (liveSample s.samples) := by
  unfold State.finishPass
  split
  · contradiction
  · rfl

/-- Every sample of the main loop lies in [0, 3.3] volts (43_host_reference.md R180). -/
theorem liveSample_wellFormed (n : Nat) : (liveSample n).wellFormed = true := by
  unfold liveSample
  split
  · assumption
  · decide

theorem advanceWorld_sameBlock (s : State) : SameBlock s (advanceWorld s) := by
  unfold advanceWorld
  refine SameBlock.trans ?_ (loopPart_cases (finishPass_sameBlock _) (SameBlock.refl _))
  refine SameBlock.trans ?_ (applyEvents_sameBlock _ _)
  exact loopPart_cases (P := SameBlock s) (by constructor <;> rfl) (by constructor <;> rfl)

@[simp] theorem advanceWorld_pos (s : State) : (advanceWorld s).pos = s.pos := (advanceWorld_sameBlock s).pos
@[simp] theorem advanceWorld_ph (s : State) : (advanceWorld s).ph = s.ph := (advanceWorld_sameBlock s).ph
@[simp] theorem advanceWorld_bitc (s : State) : (advanceWorld s).bitc = s.bitc := (advanceWorld_sameBlock s).bitc
@[simp] theorem advanceWorld_holdc (s : State) : (advanceWorld s).holdc = s.holdc := (advanceWorld_sameBlock s).holdc
@[simp] theorem advanceWorld_q (s : State) : (advanceWorld s).q = s.q := (advanceWorld_sameBlock s).q
@[simp] theorem advanceWorld_latch (s : State) : (advanceWorld s).latch = s.latch := (advanceWorld_sameBlock s).latch
@[simp] theorem advanceWorld_sclk (s : State) : (advanceWorld s).sclk = s.sclk := (advanceWorld_sameBlock s).sclk
@[simp] theorem advanceWorld_data (s : State) : (advanceWorld s).data = s.data := (advanceWorld_sameBlock s).data
@[simp] theorem advanceWorld_esr (s : State) : (advanceWorld s).esr = s.esr := (advanceWorld_sameBlock s).esr
@[simp] theorem advanceWorld_eout (s : State) : (advanceWorld s).eout = s.eout := (advanceWorld_sameBlock s).eout
@[simp] theorem advanceWorld_draws (s : State) : (advanceWorld s).draws = s.draws := (advanceWorld_sameBlock s).draws

/-- One interval of the schedule is used up by each step. -/
@[simp] theorem advanceWorld_schedule (s : State) : (advanceWorld s).schedule = s.schedule.tail := by
  have he := (applyEvents_schedule (s.schedule.headD []) (State.loopPart { s with schedule := s.schedule.tail } State.beginPass)).trans
    (loopPart_cases (P := fun t => t.schedule = s.schedule.tail) rfl rfl)
  exact loopPart_cases (P := fun t => t.schedule = s.schedule.tail) ((finishPass_schedule _).trans he) he

/-- Events that never raise rst leave it low. -/
theorem applyEvents_rst (es : List Event) :
    ∀ s : State, s.rst = false → Event.setRst true ∉ es → (applyEvents s es).rst = false := by
  induction es with
  | nil => exact fun _ h _ => h
  | cons e es ih =>
    intro s h hn
    refine ih _ ?_ (fun m => hn (List.mem_cons_of_mem _ m))
    cases e with
    | setRst b => cases b <;> simp_all [applyEvent]
    | _ => exact h

/-- An interval in which nothing raises rst leaves it low: the main loop does not touch it. -/
theorem advanceWorld_rst {s : State} (h : s.rst = false) (hn : Event.setRst true ∉ s.schedule.headD []) :
    (advanceWorld s).rst = false := by
  have hr := applyEvents_rst _ (State.loopPart { s with schedule := s.schedule.tail } State.beginPass)
    (loopPart_cases (P := fun t => t.rst = false) h h) hn
  exact loopPart_cases (P := fun t => t.rst = false) ((finishPass_rst _).trans hr) hr

/-- Where no capture follows, an interval is its events and nothing else. -/
theorem advanceWorld_notAtFrame {s : State} (h : ¬(s.ph = .ll ∧ s.pos = 0#2)) :
    advanceWorld s = applyEvents { s with schedule := s.schedule.tail } (s.schedule.headD []) := by
  have hb := applyEvents_sameBlock (s.schedule.headD []) { s with schedule := s.schedule.tail }
  unfold advanceWorld
  rw [loopPart_neg (f := State.beginPass) (by exact h), loopPart_neg (by rw [hb.ph, hb.pos]; exact h)]

@[simp] theorem chainReact_pos (b a : State) : (chainReact b a).pos = a.pos := rfl
@[simp] theorem chainReact_ph (b a : State) : (chainReact b a).ph = a.ph := rfl
@[simp] theorem chainReact_bitc (b a : State) : (chainReact b a).bitc = a.bitc := rfl
@[simp] theorem chainReact_holdc (b a : State) : (chainReact b a).holdc = a.holdc := rfl
@[simp] theorem chainReact_q (b a : State) : (chainReact b a).q = a.q := rfl
@[simp] theorem chainReact_latch (b a : State) : (chainReact b a).latch = a.latch := rfl
@[simp] theorem chainReact_sclk (b a : State) : (chainReact b a).sclk = a.sclk := rfl
@[simp] theorem chainReact_data (b a : State) : (chainReact b a).data = a.data := rfl
@[simp] theorem chainReact_rst (b a : State) : (chainReact b a).rst = a.rst := rfl
@[simp] theorem chainReact_quadIn (b a : State) : (chainReact b a).quadIn = a.quadIn := rfl
@[simp] theorem chainReact_esr (b a : State) : (chainReact b a).esr = chainShift b a := rfl
@[simp] theorem chainReact_eout (b a : State) : (chainReact b a).eout = chainCommit b a := rfl
@[simp] theorem chainReact_elapsed (b a : State) : (chainReact b a).elapsed = a.elapsed := rfl
@[simp] theorem chainReact_mode (b a : State) : (chainReact b a).mode = a.mode := rfl
@[simp] theorem chainReact_tickSeen (b a : State) : (chainReact b a).tickSeen = a.tickSeen := rfl
@[simp] theorem chainReact_loop (b a : State) : (chainReact b a).loop = a.loop := rfl
@[simp] theorem chainReact_pass (b a : State) : (chainReact b a).pass = a.pass := rfl
@[simp] theorem chainReact_samples (b a : State) : (chainReact b a).samples = a.samples := rfl
@[simp] theorem chainReact_schedule (b a : State) : (chainReact b a).schedule = a.schedule := rfl
@[simp] theorem chainReact_draws (b a : State) : (chainReact b a).draws = a.draws := rfl

/-- Without a rising edge the chain keeps both stages (20_memory.md R64, R65). -/
theorem chainReact_noEdge (b a : State) (hs : b.sclk = true ∨ a.sclk = false) (hl : b.latch = true ∨ a.latch = false) :
    chainReact b a = a := by
  have h1 : (!b.sclk && a.sclk) = false := by rcases hs with h | h <;> simp [h]
  have h2 : (!b.latch && a.latch) = false := by rcases hl with h | h <;> simp [h]
  simp [chainReact, chainShift, chainCommit, h1, h2]

/-- A shifted stage, bit by bit: the new bit at the bottom, every other bit one place up (20_memory.md R64). -/
theorem shift_bit (w : SerialWord) (b : Bool) (i : Nat) (hi : i < 16) :
    (w <<< 1 ||| BitVec.setWidth 16 (BitVec.ofBool b)).getLsbD i = if i = 0 then b else w.getLsbD (i - 1) := by
  rcases i with _ | i
  · simp
  · have : i + 1 < 16 := hi
    have hw : w[i] = w.getLsbD i := rfl
    cases b <;> simp [this, hw]

end Sys2Proof.Machine
end

