-- ==== Sys2Proof/Laws/Step.lean ====
section
/-! SUPPORT. What a meaning and a step can do: every one answers a next state, and which one (spec/42_sequencer.md R140, R151). -/

namespace Sys2Proof.Machine

/-- The state after the block's own edge: the reset step, or the micro-operation PH names. -/
def blockNext (s : State) : State :=
  if s.rst then s.resetBlock
  else
    match s.ph with
    | .ll => ((s.setLatch false).setBitc 15#4).capture.setPhase .cl
    | .cl => (s.setSclk false).setPhase .ds
    | .ds => s.sendBit (word s.q s.pos)
    | .ch => (s.setSclk true).endBit
    | .lh => ((s.setLatch true).setHoldc holdLoad).setPhase .hd
    | .hd => s.holdStep

/-- The state after a step. -/
def stepTo (s : State) : State := afterBlock s (blockNext s)

theorem blockStep_eq (s : State) : blockStep s = .next (blockNext s) := by
  unfold blockStep blockNext
  split
  · rfl
  · unfold fetch
    cases s.ph <;> rfl

/-- Every step answers a next state, and this is it (42_sequencer.md R151). -/
theorem step_eq (s : State) : step s = .next (stepTo s) := by
  simp [step, cycle, blockStep_eq, stepTo]

/-- The inversion form of `step_eq`. -/
theorem step_next {s t : State} : step s = .next t ↔ t = stepTo s := by
  rw [step_eq]
  exact ⟨fun h => (Host.Outcome.next.inj h).symm, fun h => by rw [h]⟩

/-- Every meaning answers a next state (60_exceptions.md R200). -/
theorem exec_next (i : Instr) (s : State) : ∃ t, exec i s = .next t := by
  cases i <;> exact ⟨_, rfl⟩

theorem run_zero (s : State) : Host.Core.run core 0 s = .next s := rfl

theorem run_succ (n : Nat) (s : State) : Host.Core.run core (n + 1) s = Host.Core.run core n (stepTo s) := by
  simp only [Host.Core.run]
  rw [show Host.Core.step core s = .next (stepTo s) from step_eq s]

/-- Where `n` steps lead. -/
def stepsTo : Nat → State → State
  | 0, s => s
  | n + 1, s => stepsTo n (stepTo s)

/-- Every run answers a next state, and this is it. -/
theorem run_eq (n : Nat) : ∀ s : State, Host.Core.run core n s = .next (stepsTo n s) := by
  induction n with
  | zero => exact fun s => run_zero s
  | succ n ih => exact fun s => (run_succ n s).trans (ih _)

theorem stepsTo_add (m n : Nat) : ∀ s : State, stepsTo (m + n) s = stepsTo n (stepsTo m s) := by
  induction m with
  | zero => intro s; simp [stepsTo]
  | succ m ih => intro s; rw [Nat.succ_add]; exact ih _

/-- The sixteen digit codes. -/
theorem digitCode_cases : ∀ c : DigitCode, c = 0 ∨ c = 1 ∨ c = 2 ∨ c = 3 ∨ c = 4 ∨ c = 5 ∨ c = 6 ∨ c = 7 ∨ c = 8 ∨ c = 9 ∨
    c = 10 ∨ c = 11 ∨ c = 12 ∨ c = 13 ∨ c = 14 ∨ c = 15 := by decide

/-- The four positions. -/
theorem position_cases : ∀ p : Position, p = 0#2 ∨ p = 1#2 ∨ p = 2#2 ∨ p = 3#2 := by decide

/-- The SEGROM row of a code sends a bit of the word that has that row's byte (30_encoding.md R92). -/
theorem exec_segRow (c : DigitCode) (s : State) : exec (segRow c) s = .next (s.sendBit (wordWithSegRow c s.q s.pos)) := by
  rcases digitCode_cases c with h | h | h | h | h | h | h | h | h | h | h | h | h | h | h | h <;> subst h <;> rfl

/-- The SELROM row of a position sends a bit of the word that has that row's byte (30_encoding.md R92). -/
theorem exec_selRow (p : Position) (s : State) : exec (selRow p) s = .next (s.sendBit (wordWithSelRow p s.q s.pos)) := by
  rcases position_cases p with h | h | h | h <;> subst h <;> rfl

/-- With rst = 0 in a state, the next state's rst is 0 unless an event of the first interval raises it. -/
theorem stepTo_rst {n : Nat} {s : State} (h : noResetFor (n + 1) s) : (stepTo s).rst = false := by
  obtain ⟨h0, h1⟩ := h
  have hb : (chainReact s (blockNext s)).rst = false ∧ (chainReact s (blockNext s)).schedule = s.schedule := by
    simp only [chainReact_rst, chainReact_schedule, blockNext, h0]
    cases s.ph <;> simp [h0]
  refine advanceWorld_rst hb.1 ?_
  rw [hb.2]
  cases hs : s.schedule with
  | nil => simp
  | cons es rest => exact h1 es (by simp [hs])

/-- One interval is used up by each step. -/
theorem stepTo_schedule (s : State) : (stepTo s).schedule = s.schedule.tail := by
  have : (blockNext s).schedule = s.schedule := by
    unfold blockNext
    split
    · simp
    · cases s.ph <;> simp
  simp [stepTo, afterBlock, this]

/-- Nothing raises rst in the rest of a run that nothing resets. -/
theorem noResetFor_stepTo {n : Nat} {s : State} (h : noResetFor (n + 1) s) : noResetFor n (stepTo s) := by
  refine ⟨stepTo_rst h, fun es hes => h.2 es ?_⟩
  rw [stepTo_schedule] at hes
  cases hs : s.schedule with
  | nil => simp [hs] at hes
  | cons e rest => simp only [hs, List.tail_cons] at hes; simp [hes]

theorem noResetFor_mono {m n : Nat} {s : State} (hmn : m ≤ n) (h : noResetFor n s) : noResetFor m s :=
  ⟨h.1, fun es hes => h.2 es (List.take_subset_take_left _ hmn hes)⟩

theorem noResetFor_stepsTo {m n : Nat} : ∀ {s : State}, noResetFor (m + n) s → noResetFor n (stepsTo m s) := by
  induction m with
  | zero => intro s h; simpa [stepsTo] using h
  | succ m ih => intro s h; exact ih (noResetFor_stepTo (by rwa [Nat.succ_add] at h))

end Sys2Proof.Machine
end

