-- ==== Sys2Proof/Tests/Slice0.lean ====
section
/-! SUPPORT. The model's own tests. Expected values come from spec/95_test_vectors.md (named S, O, E or by section) and from the spec's tables. A witness_ theorem shows that the hypotheses of the statement of that name can be met together. -/

namespace Sys2Proof.Tests

open Sys2Proof Sys2Proof.Machine

/-- The next state, if there is one. -/
def nextOf (o : Host.Outcome State Fault Refusal) : Option State :=
  match o with
  | .next t => some t
  | .fault _ => none
  | .refused _ => none

/-- A quad in the notation of R83, (d0, d1, d2, d3 | dp). -/
def quad (d0 d1 d2 d3 : DigitCode) (dp : BitVec 3) : Quad := ⟨d0, d1, d2, d3, dp⟩

/-- q5 of 95_test_vectors.md section 2.5: (0, 2, 0, 5 | 100). -/
def q5 : Quad := quad 0 2 0 5 0b100

/-- HOLDC = 0. -/
def h0 : BitVec Config.holdW := 0#Config.holdW

/-- HOLDC = n, for an n that fits in HOLD_W bits. -/
def hold (n : Nat) (h : n < 2 ^ Config.holdW) : BitVec Config.holdW := BitVec.ofNatLT n h

/-- HOLDC = 1, which fits for every HOLD_CYCLES. -/
def h1 : BitVec Config.holdW := hold 1 one_lt_two_pow_holdW

/-- A state in the notation of section 2.5, (POS, PH, BITC, HOLDC; Q; LATCH, SCLK, DATA); the rest as State.reset has it. -/
def st (pos : Position) (ph : Phase) (bitc : BitVec 4) (holdc : BitVec Config.holdW) (q : Quad) (latch sclk data : Bool) : State :=
  { State.reset with pos := pos, ph := ph, bitc := bitc, holdc := holdc, q := q, latch := latch, sclk := sclk, data := data }

-- Well-formedness: each check refuses an ill-formed term

/-- PH codes 6 and 7 are reserved (R95), a digit code has 4 bits, a position 2. -/
theorem test_codeLegal_refuses : Format.codeLegal .uop 6 = false ∧ Format.codeLegal .uop 7 = false ∧
    Format.codeLegal .segrom 16 = false ∧ Format.codeLegal .selrom 4 = false ∧ Format.codeLegal .uop 5 = true := by decide

/-- A sample of 3.4 V is out of [0, 3.3] (R180); 3.3 V is in it. -/
theorem test_sample_refused : Event.wellFormed (.present ⟨34, 9⟩) = false ∧ Event.wellFormed (.present ⟨33, 9⟩) = true ∧
    scheduleWellFormed [[.tick], [.modeEnter, .present ⟨34, 9⟩]] = false := by decide

-- Decoding: every row's word, bit by bit from the spec's tables

/-- 30_encoding.md R88. -/
theorem test_decode_uop :
    [decode .uop 0b000, decode .uop 0b001, decode .uop 0b010, decode .uop 0b011, decode .uop 0b100, decode .uop 0b101,
      decode .uop 0b110, decode .uop 0b111, decode .uop 0b1000] =
    [.ok .ll, .ok .cl, .ok .ds, .ok .ch, .ok .lh, .ok .hd, .error (.reservedPhase 6), .error (.reservedPhase 7),
      .error (.tooWide .uop 8)] := rfl

/-- 20_memory.md R51, 40_segment_encoder.md R101 to R112. -/
theorem test_decode_segrom :
    [decode .segrom 0b0000, decode .segrom 0b0001, decode .segrom 0b0010, decode .segrom 0b0011, decode .segrom 0b0100,
      decode .segrom 0b0101, decode .segrom 0b0110, decode .segrom 0b0111, decode .segrom 0b1000, decode .segrom 0b1001,
      decode .segrom 0b1010, decode .segrom 0b1011, decode .segrom 0b1100, decode .segrom 0b1101, decode .segrom 0b1110,
      decode .segrom 0b1111, decode .segrom 0b10000] =
    [.ok .seg0, .ok .seg1, .ok .seg2, .ok .seg3, .ok .seg4, .ok .seg5, .ok .seg6, .ok .seg7, .ok .seg8, .ok .seg9,
      .ok .segU10, .ok .segU11, .ok .segU12, .ok .segU13, .ok .segU14, .ok .segBlank, .error (.tooWide .segrom 16)] := rfl

/-- 20_memory.md R52, 41_digit_select.md R121 to R124. -/
theorem test_decode_selrom :
    [decode .selrom 0b00, decode .selrom 0b01, decode .selrom 0b10, decode .selrom 0b11, decode .selrom 0b100] =
    [.ok .sel0, .ok .sel1, .ok .sel2, .ok .sel3, .error (.tooWide .selrom 4)] := rfl

/-- At their own widths all three maps answer; a word of whole bytes is looked up in the table's order (log 6). -/
theorem test_decodeTableWord : decodeTableWord 3 4 = some .lh ∧ decodeTableWord 4 4 = some .seg4 ∧
    decodeTableWord 2 3 = some .sel3 ∧ decodeTableWord 8 5 = some .hd ∧ decodeTableWord 8 6 = some .seg6 ∧
    decodeTableWord 8 16 = none := by decide

/-- No two rows of one format apply to one value (R93). -/
theorem test_rows_disjoint : opcodeTable.length = 26 ∧
    opcodeTable.Pairwise (fun r r' => r.format ≠ r'.format ∨ r.pattern &&& r'.mask ≠ r'.pattern &&& r.mask) := by decide

/-- Packed quads of section 2.4. -/
theorem test_pack : q5.pack = 0x45020 ∧ (quad 3 3 0 15 0b001).pack = 0x1F033 ∧ (quad 10 12 14 11 0b010).pack = 0x2BECA ∧
    Quad.unpack 0x49599 = quad 9 9 5 9 0b100 := by decide

-- The words of section 2.4

theorem test_word_clock : [0, 1, 2, 3].map (word q5) = [0xC0F1, 0xA4F2, 0x40F4, 0x92F8] := by decide
theorem test_word_all_points : [0, 1, 2, 3].map (word (quad 8 8 8 8 0b111)) = [0x00F1, 0x00F2, 0x00F4, 0x80F8] := by decide
theorem test_word_blank_points : [0, 1, 2, 3].map (word (quad 15 15 15 15 0b111)) = [0x7FF1, 0x7FF2, 0x7FF4, 0xFFF8] := by decide
theorem test_word_undefined : [0, 1, 2, 3].map (word (quad 10 12 14 11 0b010)) = [0xFFF1, 0x7FF2, 0xFFF4, 0xFFF8] := by decide

-- Single steps of section 2.5

theorem test_S1_ll_captures : nextOf (step { st 0 .ll 0 h0 q5 true true false with quadIn := quad 9 9 9 9 0b111 }) =
    some { st 0 .cl 15 h0 (quad 9 9 9 9 0b111) false true false with quadIn := quad 9 9 9 9 0b111 } := by decide
theorem test_S2_ll_ignores_inputs : nextOf (step { st 2 .ll 0 h0 q5 true true false with quadIn := quad 9 9 9 9 0b111 }) =
    some { st 2 .cl 15 h0 q5 false true false with quadIn := quad 9 9 9 9 0b111 } := by decide
theorem test_S4_cl : nextOf (step (st 0 .cl 15 h0 q5 false true false)) = some (st 0 .ds 15 h0 q5 false false false) := by decide
theorem test_S6_ds_point : nextOf (step (st 2 .ds 15 h0 q5 false false true)) = some (st 2 .ch 15 h0 q5 false false false) := by decide
theorem test_S9_ds_select : nextOf (step (st 2 .ds 7 h0 q5 false false false)) = some (st 2 .ch 7 h0 q5 false false true) := by decide
theorem test_S14_ch : nextOf (step { st 0 .ch 15 h0 q5 false false true with esr := 0xABCD }) =
    some { st 0 .cl 14 h0 q5 false true true with esr := 0x579B } := by decide
theorem test_S16_last_ch : nextOf (step (st 0 .ch 0 h0 q5 false false false)) = some (st 0 .lh 0 h0 q5 false true false) := by decide
theorem test_S17_lh : nextOf (step { st 1 .lh 0 h0 q5 false true false with esr := 0xC0F1, eout := 0x92F8 }) =
    some { st 1 .hd 0 holdLoad q5 true true false with esr := 0xC0F1, eout := 0xC0F1 } := rfl
/-- S18, for every HOLD_W that has room for 999. -/
theorem test_S18_hd (h : 999 < 2 ^ Config.holdW) : nextOf (step (st 1 .hd 0 (hold 999 h) q5 true true false)) =
    some (st 1 .hd 0 (hold 998 (by omega)) q5 true true false) := rfl
theorem test_hd_one : nextOf (step (st 1 .hd 0 h1 q5 true true false)) = some (st 1 .hd 0 h0 q5 true true false) := by decide
theorem test_S20_hd_wraps : nextOf (step (st 3 .hd 0 h0 q5 true true false)) = some (st 0 .ll 0 h0 q5 true true false) := by decide

/-- S21 and P7: reset wins over the micro-operation, all pins fall, the chain keeps both stages. -/
theorem test_S21_reset : (nextOf (step { st 2 .ch 5 h0 q5 true false true with rst := true, esr := 0x3C6C, eout := 0x30F1 })).map
    (fun t => { t with q := q5, draws := 0 }) =
    some { st 0 .ll 0 h0 q5 false false false with rst := true, esr := 0x3C6C, eout := 0x30F1 } := by decide

-- The ROM rows

/-- SEG0 with and without the point (R101): bit 15 of the word is bit 7 of 0x40 or 0xC0. -/
theorem test_seg0_point : (nextOf (exec .seg0 (st 2 .ds 15 h0 q5 false false true))).map (·.data) = some false ∧
    (nextOf (exec .seg0 (st 0 .ds 15 h0 q5 false false false))).map (·.data) = some true := by decide

/-- The byte of every SEGROM row, sent bit by bit with no point (fields.out of the table). -/
theorem test_segrom_bytes :
    [Instr.seg0, .seg1, .seg2, .seg3, .seg4, .seg5, .seg6, .seg7, .seg8, .seg9, .segU10, .segU11, .segU12, .segU13, .segU14,
      .segBlank].map (fun i => [15, 14, 13, 12, 11, 10, 9, 8].map
        (fun b => (nextOf (exec i (st 3 .ds b h0 q5 false false false))).any (·.data))) =
    [0xC0, 0xF9, 0xA4, 0xB0, 0x99, 0x92, 0x82, 0xF8, 0x80, 0x90, 0xFF, 0xFF, 0xFF, 0xFF, 0xFF, 0xFF].map
      (fun v : Byte => [7, 6, 5, 4, 3, 2, 1, 0].map v.getLsbD) := by decide

/-- The byte of every SELROM row, sent bit by bit (fields.out of the table). -/
theorem test_selrom_bytes :
    [Instr.sel0, .sel1, .sel2, .sel3].map (fun i => [7, 6, 5, 4, 3, 2, 1, 0].map
        (fun b => (nextOf (exec i (st 3 .ds b h0 q5 false false false))).any (·.data))) =
    [0xF1, 0xF2, 0xF4, 0xF8].map (fun v : Byte => [7, 6, 5, 4, 3, 2, 1, 0].map v.getLsbD) := by decide

/-- After placing SEG7's word the next step performs SEG7: DATA is bit 7 of 0xF8. -/
theorem test_placed_seg7 : (nextOf (step (State.reset.withFetchWord 4 7))).map (fun t => (t.data, t.ph)) = some (true, .ch) := by
  decide

-- The display chain, section 2.8

theorem test_O7_lit : [0, 1, 2, 3].map (modulePowered 0x40F4) = [false, false, true, false] ∧
    [0, 1, 2, 3, 4, 5, 6, 7].map (segmentLit 0x40F4) = [true, true, true, true, true, true, false, true] := by decide
theorem test_O5_latch_falls : nextOf (step { st 1 .ll 0 h0 q5 true true false with esr := 0xC0F1, eout := 0x92F8 }) =
    some { st 1 .cl 15 h0 q5 false true false with esr := 0xC0F1, eout := 0x92F8 } := by decide
theorem test_readWord : readWord 0x40F4 = some ⟨2, true, some 0⟩ ∧ readWord 0xFFF8 = some ⟨3, false, none⟩ ∧
    readWord 0x92FC = none := by decide

-- The host, section 2.9 and E7 to E12

theorem test_formatTime : [0, 59, 125, 600, 5999].map (fun n => (formatTime n).pack) =
    [0x40000, 0x49500, 0x45020, 0x40001, 0x49599] := by decide
theorem test_formatVoltage : [0, 45, 101, 329, 330].map (fun n => (formatVoltage n).pack) =
    [0x1F000, 0x1F540, 0x1F101, 0x1F923, 0x1F033] := by decide
/-- 0.45 V, 3.3 V, and the clamp of E12; 0.446 V rounds to 45. -/
theorem test_centivolts : [⟨45, 99⟩, ⟨33, 9⟩, ⟨999, 99⟩, ⟨446, 999⟩].map centivolts = [45, 330, 330, 45] := by decide
/-- E3, E4: 5998, tick 5999, tick 0; a button reset from 125. -/
theorem test_ticks : (applyEvents { State.reset with elapsed := 5998 } [.tick]).elapsed = 5999 ∧
    (applyEvents { State.reset with elapsed := 5998 } [.tick, .tick]).elapsed = 0 ∧
    (applyEvents { State.reset with elapsed := 125 } [.resetButton]).elapsed = 0 := by decide
/-- P6: a mode flip, then a formatter pass, between two steps: the whole quad changes at once. -/
theorem test_mode_flip : (nextOf (step { st 1 .cl 15 h0 q5 false true false with
    quadIn := q5, schedule := [[.modeEnter, .present ⟨33, 9⟩], [.setRst true]] })).map (fun t => (t.quadIn.pack, t.rst, t.q)) =
    some (0x1F033, false, q5) := by decide
/-- R184: the seconds read for a pass stay in the quad when a tick comes before the write to the bus. -/
theorem test_preempted_pass : ((applyEvents { State.reset with elapsed := 59 } [.modeRead, .valueRead ⟨0, 0⟩, .tick, .present ⟨0, 0⟩]).quadIn,
    (applyEvents { State.reset with elapsed := 59 } [.modeRead, .tick, .present ⟨0, 0⟩]).quadIn) =
    (quad 0 0 5 9 0b100, quad 0 1 0 0 0b100) := by decide
/-- R184: a main loop's pass waits for a tick handler that a reset edge has landed in, and shows what the handler leaves. -/
theorem test_pass_waits_for_tick : ((applyEvents { State.reset with elapsed := 124 } [.tickRead, .resetButton, .present ⟨0, 0⟩]).quadIn,
    (nextOf (step { st 3 .hd 0 h0 q5 true true false with
      loop := true, elapsed := 124, schedule := [[.tickRead, .resetButton]] })).map (·.quadIn)) =
    (quad 0 2 0 5 0b100, some (quad 0 2 0 5 0b100)) := by decide
/-- R182: the main loop makes its pass in the interval before a capture, with nothing scheduled, and not in another interval. -/
theorem test_main_loop : (nextOf (step { st 3 .hd 0 h0 q5 true true false with loop := true, elapsed := 125 })).map (·.quadIn) =
      some (quad 0 2 0 5 0b100) ∧
    (nextOf (step { st 2 .hd 0 h0 q5 true true false with loop := true, elapsed := 125 })).map (·.quadIn) = some (quad 0 0 0 0 0) := by
  decide
/-- The trace token of the first step after reset, and 70_reset_and_hazards.md R241's illustration. -/
theorem test_first_token : tokenOf State.reset = .llStar ∧ bitTokens true = [.cl, .ds true, .ch] := by decide
theorem test_refresh_example : refreshRateMet 1000000 1000 := by unfold refreshRateMet; decide

-- Witnesses: the hypotheses of the statements

/-- Nothing is scheduled at reset, so nothing resets. -/
theorem reset_noResetFor (n : Nat) : noResetFor n State.reset := ⟨rfl, by simp [State.reset]⟩

/-- A legal state at the LH step of position 2: the whole word 0x40F4 has been shifted, position 1 is shown. -/
def lhState : State := { st 2 .lh 0 h0 q5 false true false with esr := 0x40F4, eout := 0xA4F2 }

theorem lhState_legal : Legal lhState := by
  have hw : word q5 2#2 = 0x40F4#16 ∧ word q5 1#2 = 0xA4F2#16 := by decide
  have hc : 0 < Config.holdCycles := Nat.succ_pos _
  refine ⟨⟨?_, ?_, ?_⟩, ⟨?_, ?_, ?_, ?_, ?_, ?_⟩, ⟨?_, ?_, ?_, ?_, ?_⟩, ⟨?_, ?_⟩⟩ <;>
    simp [lhState, st, h0, State.reset, hw, hc, Config.secondsMod]
  decide

/-- A legal state at the DS step of bit 14 of position 2, after the point's bit 0. -/
def dsState : State := { st 2 .ds 14 h0 q5 false false false with esr := 0xC0F0, eout := 0xA4F2 }

theorem dsState_legal : Legal dsState := by
  have hw : word q5 2#2 = 0x40F4#16 ∧ word q5 1#2 = 0xA4F2#16 := by decide
  have hc : 0 < Config.holdCycles := Nat.succ_pos _
  refine ⟨⟨?_, ?_, ?_⟩, ⟨?_, ?_, ?_, ?_, ?_, ?_⟩, ⟨?_, ?_, ?_, ?_, ?_⟩, ⟨?_, ?_⟩⟩ <;>
    simp [dsState, st, h0, State.reset, hw, hc, Config.secondsMod]
  intro i hi
  obtain rfl : i = 0 := by omega
  decide

theorem witness_DecodeAndEncodeAgree : Instr.wellFormed .segU10 = true ∧ decode .uop 5 = .ok .hd ∧ decode .segrom 15 = .ok .segBlank ∧
    decode .selrom 3 = .ok .sel3 ∧ Format.codeLegal .selrom 3 = true := ⟨rfl, rfl, rfl, rfl, rfl⟩
theorem witness_PlacedRowIsPerformedNext : decode .uop 5 = .ok .hd ∧ decode .segrom 10 = .ok .segU10 ∧ decode .selrom 0 = .ok .sel0 :=
  ⟨rfl, rfl, rfl⟩
theorem witness_StepRunsTheDecodedMicroOperation : State.reset.rst = false ∧
    decode .uop (phaseCode State.reset.ph).toNat = .ok .ll ∧ Instr.wellFormed .ll = true := ⟨rfl, rfl, rfl⟩
theorem witness_DsPerformsTheRowsItAddresses : decode .segrom (digit q5 3).toNat = .ok .seg5 ∧
    decode .selrom (3 : Position).toNat = .ok .sel3 := ⟨rfl, rfl⟩
theorem witness_RowsLeaveTheEnvironmentAlone : nextOf (exec .seg5 dsState) = some { dsState with data := false, ph := .ch } := by decide
/-- The frame's clauses: a row that is not HD, one that is neither LL nor CH, LL off position 0, a UOP that is not DS. -/
theorem witness_RowsWriteOnlyTheirOwnRegisters : exec .lh lhState = .next { lhState with latch := true, holdc := holdLoad, ph := .hd } ∧
    lhState.pos ≠ 0#2 ∧ (encode .lh).1 = .uop := ⟨rfl, by decide, rfl⟩
theorem witness_LatchLow : (st 0 .ll 0 h0 q5 true true false).rst = false ∧ (st 0 .ll 0 h0 q5 true true false).ph = .ll ∧
    (st 0 .ll 0 h0 q5 true true false).pos = 0#2 ∧ (st 3 .ll 0 h0 q5 true true false).pos ≠ 0#2 := by decide
theorem witness_ClockLow : (st 0 .cl 15 h0 q5 false true false).rst = false ∧ (st 0 .cl 15 h0 q5 false true false).ph = .cl := by decide
theorem witness_ClockLow_reset : ∃ s t : State, s.rst = true ∧ step s = .next t ∧ t.rst = false :=
  ⟨{ State.reset with rst := true, schedule := [[.setRst false]] }, _, rfl, step_eq _, rfl⟩
theorem witness_DataSet : Legal dsState ∧ dsState.ph = .ds ∧ dsState.rst = false ∧
    8 ≤ (st 2 .ds 8 h0 q5 false false false).bitc.toNat ∧ ¬8 ≤ (st 2 .ds 7 h0 q5 false false false).bitc.toNat :=
  ⟨dsState_legal, rfl, rfl, by decide, by decide⟩
theorem witness_ClockHigh : (st 0 .ch 0 h0 q5 false false true).rst = false ∧ (st 0 .ch 0 h0 q5 false false true).ph = .ch ∧
    (st 0 .ch 0 h0 q5 false false true).bitc = 0#4 ∧ (st 0 .ch 1 h0 q5 false false true).bitc ≠ 0#4 := by decide
theorem witness_LatchHigh : Legal lhState ∧ lhState.rst = false ∧ lhState.ph = .lh := ⟨lhState_legal, rfl, rfl⟩
theorem witness_Hold : (st 3 .hd 0 h0 q5 true true false).rst = false ∧ (st 3 .hd 0 h0 q5 true true false).ph = .hd ∧
    (st 3 .hd 0 h0 q5 true true false).holdc = h0 ∧ (st 3 .hd 0 h0 q5 true true false).pos = 3#2 ∧
    (st 3 .hd 0 h1 q5 true true false).holdc ≠ h0 := by decide
theorem witness_DigitRows : (Instr.seg9, (0x90 : Byte), (0x10 : Byte)) ∈ ([(.seg8, 0x80, 0x00), (.seg9, 0x90, 0x10)] : List _) ∧
    dpf q5 2 = true ∧ dpf q5 3 = false := by decide
theorem witness_WordIsSegmentThenSelect : q5.dp = (quad 0 9 9 9 0b100).dp ∧ digit q5 0 = digit (quad 0 9 9 9 0b100) 0 ∧
    word q5 0 = word (quad 0 9 9 9 0b100) 0 ∧ (q5.d0 = 0 ∧ q5.d1 = 2 ∧ q5.d2 = 0 ∧ q5.d3 = 5 ∧ q5.dp = 0b100) := by decide
theorem witness_WordStaysInItsRange : (word q5 2).getLsbD 15 = false ∧ dpf q5 2 = true ∧ dpf q5 3 = false := by decide
theorem witness_ResetStep : ({ st 2 .ch 5 h0 q5 false false true with rst := true } : State).rst = true ∧
    ({ st 2 .ch 5 h0 q5 false false true with rst := true, schedule := [[.setRst false]] } : State).rst = true := by decide
/-- A reset that is released: the step after it has rst = 0 and nothing scheduled. -/
theorem witness_FirstCommitAfterResetIsClean : ∃ s t : State, s.rst = true ∧ step s = .next t ∧ noResetFor 50 t :=
  ⟨{ State.reset with rst := true, schedule := [[.setRst false]] }, _, rfl, step_eq _, rfl, by
    rw [stepTo_schedule]; simp⟩
theorem witness_FrameRegisterUnread : State.reset.rst = false ∧ State.reset.ph = .ll ∧ State.reset.pos = 0#2 := ⟨rfl, rfl, rfl⟩
theorem witness_ChainShifts : ∃ t, step (st 0 .ch 15 h0 q5 false false true) = .next t ∧
    (st 0 .ch 15 h0 q5 false false true).sclk = false ∧ t.sclk = true := ⟨_, step_eq _, rfl, rfl⟩
theorem witness_ChainCommits : ∃ t, step lhState = .next t ∧ lhState.latch = false ∧ t.latch = true := ⟨_, step_eq _, rfl, rfl⟩
theorem witness_OnePinPerStep : lhState.rst = false ∧ (lhState.ph = .ll ∨ lhState.ph = .lh) ∧
    ({ lhState with rst := true } : State).rst = true := by decide
theorem witness_LegalEdges : Legal lhState ∧ lhState.rst = false := ⟨lhState_legal, rfl⟩
theorem witness_OnlyTheCommittedModule : Legal lhState ∧ lhState.rst = false ∧ lhState.ph = .lh := ⟨lhState_legal, rfl, rfl⟩
theorem witness_StepKeepsTheStateLegal : Legal dsState := dsState_legal
theorem witness_HoldCounterFits : Legal lhState ∧ 1 ≤ Config.holdCycles ∧ Config.holdCycles ≤ 2 ^ Config.holdCycles :=
  ⟨lhState_legal, Nat.succ_pos _, Nat.lt_two_pow_self.le⟩
theorem witness_PositionAdvances : (st 3 .hd 0 h0 q5 true true false).rst = false ∧ (st 3 .hd 0 h0 q5 true true false).ph = .hd ∧
    (st 3 .hd 0 h0 q5 true true false).holdc = h0 := by decide
theorem witness_Control : noResetFor 9 State.reset ∧ noResetFor 9 { State.reset with quadIn := q5, q := q5 } ∧
    State.reset.ph = ({ State.reset with quadIn := q5, q := q5 } : State).ph :=
  ⟨reset_noResetFor 9, ⟨rfl, by simp [State.reset]⟩, rfl⟩
/-- A run in which the host keeps changing QUAD_IN meets the same hypotheses. -/
theorem witness_Position : State.reset.ph = .ll ∧ noResetFor Config.tPos State.reset ∧
    noResetFor 50 { State.reset with schedule := [[.drive q5], [.tick, .present ⟨0, 0⟩]] } :=
  ⟨rfl, reset_noResetFor _, rfl, by simp⟩
theorem witness_Frame : State.reset.ph = .ll ∧ State.reset.pos = 0#2 ∧ noResetFor Config.tFrame State.reset ∧
    0 < Config.tPos ∧ noResetFor ((3 : Position).toNat * Config.tPos + 50 + 0) State.reset :=
  ⟨rfl, rfl, reset_noResetFor _, by unfold Config.tPos; omega, reset_noResetFor _⟩
theorem witness_FrameDisplaysTheHostsClock : ({ State.reset with quadIn := formatTime 5999 } : State).quadIn = formatTime 5999 ∧
    5999 < Config.secondsMod ∧ noResetFor ((2 : Position).toNat * Config.tPos + 50) { State.reset with quadIn := formatTime 5999 } :=
  ⟨rfl, by decide, rfl, by simp [State.reset]⟩
theorem witness_Schedule : State.reset.schedule = [] ∧ State.reset.loop = false ∧ State.reset.ph = .ll ∧ State.reset.pos = 0#2 ∧
    Event.loopStart ∉ ({ State.reset with schedule := [[.tick], []] } : State).schedule.headD [] ∧
    ({ State.reset with loop := true } : State).loop = true ∧ (st 0 .cl 15 h0 q5 false true false).ph ≠ .ll := by decide
/-- A main loop that runs, at the last step of a frame, preempted twice before the capture. -/
theorem witness_MainLoop : ∃ s t : State, s.loop = true ∧ (∀ q, Event.drive q ∉ s.schedule.headD []) ∧ step s = .next t ∧ t.ph = .ll ∧
    t.pos = 0#2 :=
  ⟨{ st 3 .hd 0 h0 q5 true true false with
      loop := true, schedule := [[.modeRead, .modeEnter, .valueRead ⟨0, 0⟩, .tick]] }, _, rfl, by simp, step_eq _, rfl, rfl⟩
/-- A host that changes its cells in the frame and never drives the lines otherwise. -/
theorem witness_CellChanges : ({ State.reset with loop := true, schedule := [[.tick], [.modeEnter]] } : State).loop = true ∧
    noResetFor (Config.tFrame + ((3 : Position).toNat * Config.tPos + 50))
      { State.reset with loop := true, schedule := [[.tick], [.modeEnter]] } ∧
    (∀ es ∈ ({ State.reset with loop := true, schedule := [[.tick], [.modeEnter]] } : State).schedule, ∀ q, Event.drive q ∉ es) :=
  ⟨rfl, ⟨rfl, fun es hes => by have := List.mem_of_mem_take hes; simp at this; rcases this with h | h <;> simp [h]⟩, by simp⟩
theorem witness_Ticks : State.reset.tickSeen = none ∧ State.reset.elapsed < 6000 := by decide
theorem witness_Formatter : (330 ≤ 330 ∧ 5999 < 6000) ∧ digit (formatQuad .voltage 5999 ⟨33, 9⟩) 3 = 15 := by decide
theorem witness_TickHandlerBegun : ({ State.reset with tickSeen := some 124 } : State).tickSeen = some 124 ∧
    ({ State.reset with tickSeen := some 124 } : State).pass ≠ .done ∧ State.reset.tickSeen = none ∧ State.reset.mode = .time := by decide
theorem witness_FormatterPass : State.reset.pass = .idle ∧ ∀ e ∈ [Event.modeEnter, .tick] ++ [Event.resetButton],
    e = .tickRead ∨ e = .tick ∨ e = .resetButton ∨ e = .modeEnter ∨ e = .modeExit := by decide

end Sys2Proof.Tests
end

section
/-! SUPPORT. What a row can do and what none does: the inversion of exec, and the environment as a frame (spec/00_scope.md R8). -/

namespace Sys2Proof.Machine

/-- The rows by the three maps of the opcode table (30_encoding.md R89): six micro-operations, and the row of each address of
either ROM. -/
theorem instr_cases (i : Instr) : (i = .ll ∨ i = .cl ∨ i = .ds ∨ i = .ch ∨ i = .lh ∨ i = .hd) ∨
    (∃ c : DigitCode, i = segRow c) ∨ ∃ p : Position, i = selRow p := by
  cases i <;> decide

/-- Everything a row can do (42_sequencer.md R141 to R146; 30_encoding.md R92): DS and the ROM rows send one bit of a word, and
differ in the word alone. -/
theorem exec_cases {i : Instr} {s t : State} (h : exec i s = .next t) :
    (∃ w, t = s.sendBit w ∧ ((i = .ds ∧ w = word s.q s.pos) ∨
      (∃ c, i = segRow c ∧ w = wordWithSegRow c s.q s.pos) ∨ ∃ p, i = selRow p ∧ w = wordWithSelRow p s.q s.pos)) ∨
    (i = .ll ∧ t = ((s.setLatch false).setBitc 15#4).capture.setPhase .cl) ∨
    (i = .cl ∧ t = (s.setSclk false).setPhase .ds) ∨
    (i = .ch ∧ t = (s.setSclk true).endBit) ∨
    (i = .lh ∧ t = ((s.setLatch true).setHoldc holdLoad).setPhase .hd) ∨
    (i = .hd ∧ t = s.holdStep) := by
  rcases instr_cases i with (rfl | rfl | rfl | rfl | rfl | rfl) | ⟨c, rfl⟩ | ⟨p, rfl⟩
  case inl.inr.inr.inl => cases h; exact .inl ⟨_, rfl, .inl ⟨rfl, rfl⟩⟩
  case inr.inl => cases (exec_segRow c s).symm.trans h; exact .inl ⟨_, rfl, .inr (.inl ⟨c, rfl, rfl⟩)⟩
  case inr.inr => cases (exec_selRow p s).symm.trans h; exact .inl ⟨_, rfl, .inr (.inr ⟨p, rfl, rfl⟩)⟩
  all_goals cases h; simp

/-- The fields that no row writes: the inputs, the display chain, the host, and the model's own schedule and counts
(00_scope.md R8; 10_state.md R33, R36). -/
structure SameEnvironment (s t : State) : Prop where
  rst : t.rst = s.rst
  quadIn : t.quadIn = s.quadIn
  esr : t.esr = s.esr
  eout : t.eout = s.eout
  elapsed : t.elapsed = s.elapsed
  mode : t.mode = s.mode
  tickSeen : t.tickSeen = s.tickSeen
  loop : t.loop = s.loop
  pass : t.pass = s.pass
  schedule : t.schedule = s.schedule
  draws : t.draws = s.draws
  samples : t.samples = s.samples

theorem sendBit_sameEnvironment (s : State) (w : SerialWord) : SameEnvironment s (s.sendBit w) := by constructor <;> rfl

theorem holdStep_sameEnvironment (s : State) : SameEnvironment s s.holdStep := by constructor <;> simp

theorem exec_sameEnvironment {i : Instr} {s t : State} (h : exec i s = .next t) : SameEnvironment s t := by
  obtain ⟨w, rfl, -⟩ | ⟨-, rfl⟩ | ⟨-, rfl⟩ | ⟨-, rfl⟩ | ⟨-, rfl⟩ | ⟨-, rfl⟩ := exec_cases h
  · exact sendBit_sameEnvironment s w
  · constructor <;> simp
  · constructor <;> rfl
  · constructor <;> simp
  · constructor <;> rfl
  · exact holdStep_sameEnvironment s

end Sys2Proof.Machine
end

section
/-! SUPPORT. What a step with rst = 0 leaves in HOLDC where the micro-operation writes it (spec/10_state.md R31; spec/42_sequencer.md R145,
R146), and HOLD_W as a minimum (spec/00_scope.md R5). -/

namespace Sys2Proof.Machine

/-- No width from 1 on that holds HOLD_CYCLES values is less than HOLD_W (00_scope.md R5). -/
theorem holdW_le {w : Nat} (hw : 1 ≤ w) (h : Config.holdCycles ≤ 2 ^ w) : Config.holdW ≤ w :=
  max_le hw (Nat.clog_le_of_le_pow h)

/-- HOLDC is written by the block alone: neither the chain nor the outside world changes it. -/
@[simp] theorem stepTo_holdc (s : State) : (stepTo s).holdc = (blockNext s).holdc := by
  simp [stepTo, afterBlock]

theorem blockNext_lh {s : State} (hr : s.rst = false) (hp : s.ph = .lh) :
    blockNext s = ((s.setLatch true).setHoldc holdLoad).setPhase .hd := by
  simp [blockNext, hr, hp]

theorem blockNext_hd {s : State} (hr : s.rst = false) (hp : s.ph = .hd) : blockNext s = s.holdStep := by
  simp [blockNext, hr, hp]

/-- The count of the hold does not wrap: at 0 it stays, as subtraction of natural numbers does (42_sequencer.md R146, R155). -/
theorem holdStep_holdc_toNat (s : State) : s.holdStep.holdc.toNat = s.holdc.toNat - 1 := by
  by_cases h : s.holdc = 0#Config.holdW
  · simp [h]
  · simp [h]

end Sys2Proof.Machine
end

section
/-! SUPPORT. The outside world's events and the count of samples (spec/43_host_reference.md R180). -/

namespace Sys2Proof.Machine

/-- An event carries its sample with it; only the main loop's own pass draws a free one. -/
@[simp] theorem applyEvent_samples (s : State) (e : Event) : (applyEvent s e).samples = s.samples := by
  cases e <;> rfl

@[simp] theorem applyEvents_samples (es : List Event) : ∀ s : State, (applyEvents s es).samples = s.samples := by
  induction es with
  | nil => exact fun _ => rfl
  | cons e es ih => exact fun s => (ih _).trans (applyEvent_samples s e)

end Sys2Proof.Machine
end

section
/-! SUPPORT. The obligations about the scope: who writes what (spec/00_scope.md R8), and the width of HOLDC (R5). -/

namespace Sys2Proof.Proofs

open Sys2Proof Sys2Proof.Machine

/-- Settles O9, from the inversion of exec: what any row can answer keeps the environment. -/
theorem rowsLeaveTheEnvironmentAlone : Obligations.RowsLeaveTheEnvironmentAlone := by
  intro i s t h
  have k := exec_sameEnvironment h
  exact ⟨k.rst, k.quadIn, k.esr, k.eout, k.elapsed, k.mode, k.tickSeen, k.loop, k.pass, k.schedule, k.draws, k.samples⟩

/-- Settles O40: the width by the minimality of the logarithm, the load and the count by the value HOLDC has after the step, the
bound by the invariant `Legal`. -/
theorem holdCounterFitsItsWidth : Obligations.HoldCounterFitsItsWidth := by
  refine ⟨holdW_pos, holdCycles_le_two_pow, fun w => holdW_le, fun s hr hp => ⟨_, step_eq s, ?load⟩,
    fun s hr hp => ⟨_, step_eq s, ?count⟩, fun s hs => Nat.le_sub_one_of_lt hs.seq.count⟩
  case load => simp [blockNext_lh hr hp]
  case count =>
    have hd : (stepTo s).holdc.toNat = s.holdc.toNat - 1 := by
      rw [stepTo_holdc, blockNext_hd hr hp, holdStep_holdc_toNat]
    split <;> omega

/-- Settles O50: a list of events and a whole interval both keep `SameBlock`; events alone keep the schedule and the samples too. -/
theorem eventsLeaveTheBlockAndTheChainAlone : Obligations.EventsLeaveTheBlockAndTheChainAlone := by
  refine ⟨fun s t ht => ?_, fun s es => ⟨applyEvents_schedule es s, applyEvents_samples es s⟩⟩
  have h : SameBlock s t := by
    obtain rfl | ⟨es, rfl⟩ := ht
    · exact advanceWorld_sameBlock s
    · exact applyEvents_sameBlock es s
  exact ⟨h.pos, h.ph, h.bitc, h.holdc, h.q, h.latch, h.sclk, h.data, h.esr, h.eout, h.draws⟩

end Sys2Proof.Proofs
end

section
/-! SUPPORT. The host's two cells stay in range whatever the outside world does (spec/43_host_reference.md R170, R171, R175). -/

namespace Sys2Proof.Machine

theorem tickValue_lt (n : Nat) : tickValue n < Config.secondsMod := Nat.mod_lt _ (by decide)

/-- `HostLegal` looks at ElapsedSeconds and the pending tick read only. -/
theorem HostLegal.congr {s t : State} (h : HostLegal s) (he : t.elapsed = s.elapsed) (hs : t.tickSeen = s.tickSeen) :
    HostLegal t :=
  ⟨he ▸ h.elapsed, hs ▸ h.seen⟩

theorem settledSeconds_lt {s : State} (h : HostLegal s) : s.settledSeconds < Config.secondsMod := by
  unfold State.settledSeconds
  split
  · exact tickValue_lt _
  · exact h.elapsed

theorem endTick_hostLegal {s : State} (h : HostLegal s) : HostLegal s.endTick := ⟨settledSeconds_lt h, nofun⟩

theorem applyEvent_hostLegal {s : State} (h : HostLegal s) (e : Event) : HostLegal (applyEvent s e) := by
  cases e with
  | tickRead => exact ⟨settledSeconds_lt h, fun n hn => Option.some.inj hn ▸ settledSeconds_lt h⟩
  | tick => exact ⟨tickValue_lt _, nofun⟩
  | resetButton => exact ⟨(by decide : 0 < Config.secondsMod), h.seen⟩
  | drive | setRst | modeEnter | modeExit => exact h.congr rfl rfl
  | modeRead | valueRead | present | loopStart => exact (endTick_hostLegal h).congr rfl rfl

theorem applyEvents_hostLegal (es : List Event) : ∀ {s : State}, HostLegal s → HostLegal (applyEvents s es) := by
  induction es with
  | nil => exact id
  | cons e es ih => exact fun h => ih (applyEvent_hostLegal h e)

theorem finishPass_hostLegal {s : State} (h : HostLegal s) : HostLegal s.finishPass := by
  unfold State.finishPass
  split
  · exact h
  · exact (applyEvent_hostLegal h _).congr rfl rfl

theorem advanceWorld_hostLegal {s : State} (h : HostLegal s) : HostLegal (advanceWorld s) := by
  have begun : HostLegal (State.loopPart { s with schedule := s.schedule.tail } State.beginPass) :=
    loopPart_cases (h.congr rfl rfl) (h.congr rfl rfl)
  have acted := applyEvents_hostLegal (s.schedule.headD []) begun
  exact loopPart_cases (finishPass_hostLegal acted) acted

end Sys2Proof.Machine
end

section
/-! SUPPORT. The block's own edge, one equation per phase (spec/42_sequencer.md R141 to R146), what the chain makes of it when no
line rises (20_memory.md R64, R65), and POS and Q after a step. -/

namespace Sys2Proof.Machine

theorem blockNext_reset {s : State} (hr : s.rst = true) : blockNext s = s.resetBlock := by
  simp [blockNext, hr]

theorem blockNext_ll {s : State} (hr : s.rst = false) (hp : s.ph = .ll) :
    blockNext s = ((s.setLatch false).setBitc 15#4).capture.setPhase .cl := by
  simp [blockNext, hr, hp]

theorem blockNext_cl {s : State} (hr : s.rst = false) (hp : s.ph = .cl) : blockNext s = (s.setSclk false).setPhase .ds := by
  simp [blockNext, hr, hp]

theorem blockNext_ds {s : State} (hr : s.rst = false) (hp : s.ph = .ds) : blockNext s = s.sendBit (word s.q s.pos) := by
  simp [blockNext, hr, hp]

theorem blockNext_ch {s : State} (hr : s.rst = false) (hp : s.ph = .ch) : blockNext s = (s.setSclk true).endBit := by
  simp [blockNext, hr, hp]

/-- With rst = 0 the edge is the micro-operation that is fetched (42_sequencer.md R140). -/
theorem exec_fetch {s : State} (hr : s.rst = false) : exec (fetch s) s = .next (blockNext s) := by
  simpa [blockStep, hr] using blockStep_eq s

/-- A line that is high after the edge only where it was high before gives the chain nothing to react to (20_memory.md R64, R65). -/
theorem chainReact_noRise {b a : State} (hs : a.sclk = true → b.sclk = true) (hl : a.latch = true → b.latch = true) :
    chainReact b a = a :=
  chainReact_noEdge b a (by grind) (by grind)

/-- Where BITC is not 0 the end of a bit counts down without a wrap (42_sequencer.md R144). -/
theorem endBit_bitc_toNat {s : State} (hb : s.bitc ≠ 0#4) : s.endBit.bitc.toNat + 1 = s.bitc.toNat := by
  have : s.bitc.toNat ≠ 0 := fun e => hb (BitVec.eq_of_toNat_eq e)
  rw [endBit_bitc, if_neg hb]
  bv_omega

/-- The capture at position 0 does not depend on what Q held (10_state.md R22). -/
theorem capture_forgets_q (s : State) (q : Quad) (h0 : s.pos = 0#2) : State.capture { s with q := q } = s.capture := by
  simp [State.capture, h0]

/-- A SEGROM row is no micro-operation (30_encoding.md R89). -/
theorem encode_segRow : ∀ c : DigitCode, (encode (segRow c)).1 ≠ .uop := by decide

/-- A SELROM row is no micro-operation (30_encoding.md R89). -/
theorem encode_selRow : ∀ p : Position, (encode (selRow p)).1 ≠ .uop := by decide

/-- POS is written by the block alone: neither the chain nor the outside world changes it. -/
@[simp] theorem stepTo_pos (s : State) : (stepTo s).pos = (blockNext s).pos := by
  simp [stepTo, afterBlock]

/-- Q is written by the block alone: neither the chain nor the outside world changes it. -/
@[simp] theorem stepTo_q (s : State) : (stepTo s).q = (blockNext s).q := by
  simp [stepTo, afterBlock]

/-- No edge touches the host's cells (43_host_reference.md R172). -/
theorem blockNext_hostLegal {s : State} (h : HostLegal s) : HostLegal (blockNext s) := by
  cases hr : s.rst with
  | true => rw [blockNext_reset hr]; exact h.congr rfl rfl
  | false =>
    have k := exec_sameEnvironment (exec_fetch hr)
    exact h.congr k.elapsed k.tickSeen

end Sys2Proof.Machine
end

section
/-! SUPPORT. The invariant of the block and the display chain, edge by edge (spec/10_state.md R26, R32; 20_memory.md R66). -/

namespace Sys2Proof.Machine

/-- The part of `Legal` that the outside world cannot touch. -/
structure BlockLegal (s : State) : Prop where
  seq : SeqLegal s
  pins : PinsLegal s
  chain : ChainLegal s

theorem Legal.block {s : State} (h : Legal s) : BlockLegal s := ⟨h.seq, h.pins, h.chain⟩

theorem BlockLegal.legal {s : State} (h : BlockLegal s) (k : HostLegal s) : Legal s := ⟨h.seq, h.pins, h.chain, k⟩

/-- `BlockLegal` looks at the block and the display chain only. -/
theorem SameBlock.blockLegal {s t : State} (k : SameBlock s t) (h : BlockLegal s) : BlockLegal t := by
  obtain ⟨pos, ph, bitc, holdc, q, latch, sclk, data, esr, eout, -⟩ := k
  obtain ⟨⟨_, _, _⟩, ⟨_, _, _, _, _, _⟩, ⟨_, _, _, _, _⟩⟩ := h
  refine ⟨⟨?_, ?_, ?_⟩, ⟨?_, ?_, ?_, ?_, ?_, ?_⟩, ⟨?_, ?_, ?_, ?_, ?_⟩⟩ <;>
    simpa only [pos, ph, bitc, holdc, q, latch, sclk, data, esr, eout]

/-- The values RESET_STATE gives the block satisfy the invariant, whatever Q and the chain hold (70_reset_and_hazards.md R230). -/
theorem blockLegal_of_resetValues {s : State} (hp : s.ph = .ll) (h0 : s.pos = 0#2) (hh : s.holdc = 0#Config.holdW)
    (hl : s.latch = false) (hs : s.sclk = false) (hd : s.data = false) : BlockLegal s where
  seq := by constructor <;> simp [hp, hh, Config.holdCycles]
  pins := by constructor <;> simp [hp, hl, hs, hd]
  chain := by constructor <;> simp [hp, h0]

variable {s : State}

/-- The reset step moves no line upward, so the chain keeps its stages (70_reset_and_hazards.md R232). -/
theorem blockLegal_reset (s : State) : BlockLegal (chainReact s s.resetBlock) :=
  blockLegal_of_resetValues rfl rfl rfl rfl rfl rfl

/-- LL begins a word: no bit of it is shifted yet, and off position 0 the frame on display is still Q's. -/
theorem blockLegal_ll (h : BlockLegal s) (hp : s.ph = .ll) :
    BlockLegal (chainReact s (((s.setLatch false).setBitc 15#4).capture.setPhase .cl)) := by
  rw [chainReact_noRise (by simp) (by simp)]
  exact {
    seq := by constructor <;> simp [h.seq.count]
    pins := by constructor <;> simp
    chain := by
      constructor
      case previous =>
        intro _ hpos
        have h0 : s.pos ≠ 0#2 := by simpa using hpos
        simpa [h0] using h.chain.previous (by simp [hp]) h0
      all_goals simp }

theorem blockLegal_cl (h : BlockLegal s) (hp : s.ph = .cl) : BlockLegal (chainReact s ((s.setSclk false).setPhase .ds)) := by
  rw [chainReact_noRise (by simp) (by simp)]
  exact {
    seq := by constructor <;> simp [h.seq.count]
    pins := by constructor <;> simp [h.pins.i1, hp]
    chain := by
      constructor
      case shifted => exact fun _ => h.chain.shifted (by simp [hp])
      case previous => exact fun _ => h.chain.previous (by simp [hp])
      all_goals simp }

theorem blockLegal_ds (h : BlockLegal s) (hp : s.ph = .ds) : BlockLegal (chainReact s (s.sendBit (word s.q s.pos))) := by
  rw [chainReact_noRise (by simp) (by simp)]
  exact {
    seq := by constructor <;> simp [h.seq.count]
    pins := by constructor <;> simp [h.pins.i1, h.pins.i3, hp]
    chain := by
      constructor
      case shifted => exact fun _ => h.chain.shifted (by simp [hp])
      case previous => exact fun _ => h.chain.previous (by simp [hp])
      all_goals simp }

/-- What CH leaves in ESR: the bits of the word from BITC upward, in the low end. -/
theorem chainShift_ch_bit (h : BlockLegal s) (hp : s.ph = .ch) {i : Nat} (hi : i + s.bitc.toNat < 16) :
    (chainShift s (s.setSclk true).endBit).getLsbD i = (word s.q s.pos).getLsbD (i + s.bitc.toNat) := by
  have low : s.sclk = false := h.pins.i3 (.inr hp)
  have rises : chainShift s (s.setSclk true).endBit = s.esr <<< 1 ||| BitVec.setWidth 16 (BitVec.ofBool s.data) := by
    simp [chainShift, low]
  rw [rises, shift_bit _ _ _ (by omega)]
  cases i with
  | zero => simpa using h.chain.data hp
  | succ i =>
    have old := h.chain.shifted (by simp [hp]) i (by omega)
    simpa [Nat.add_right_comm] using old

/-- The last CH: the sixteenth bit completes the word. -/
theorem chainShift_ch_full (h : BlockLegal s) (hp : s.ph = .ch) (hb : s.bitc = 0#4) :
    chainShift s (s.setSclk true).endBit = word s.q s.pos := by
  refine BitVec.eq_of_getLsbD_eq fun i hi => ?_
  simpa [hb] using chainShift_ch_bit h hp (i := i) (by simpa [hb] using hi)

theorem chainCommit_ch (h : BlockLegal s) (hp : s.ph = .ch) : chainCommit s (s.setSclk true).endBit = s.eout := by
  simp [chainCommit, h.pins.i1, hp]

/-- CH takes DATA in: one more bit of the word stands in ESR, all sixteen when BITC is 0. -/
theorem blockLegal_ch (h : BlockLegal s) (hp : s.ph = .ch) : BlockLegal (chainReact s (s.setSclk true).endBit) := by
  have previous := h.chain.previous (by simp [hp])
  by_cases hb : s.bitc = 0#4
  · exact {
      seq := by constructor <;> simp [hb, h.seq.count]
      pins := by constructor <;> simp [hb, h.pins.i1, hp]
      chain := by
        constructor
        case full =>
          have last : s.data = (word s.q s.pos).getLsbD 0 := by simpa [hb] using h.chain.data hp
          simpa [hb, chainShift_ch_full h hp hb] using last.trans (word_bit_zero s.q s.pos)
        case previous => simpa [hb, chainCommit_ch h hp] using previous
        all_goals simp [hb] }
  · have pred : (chainReact s (s.setSclk true).endBit).bitc.toNat + 1 = s.bitc.toNat :=
      endBit_bitc_toNat (s := s.setSclk true) hb
    exact {
      seq := by constructor <;> simp [hb, h.seq.count]
      pins := by constructor <;> simp [hb, h.pins.i1, hp]
      chain := by
        constructor
        case shifted =>
          intro _ i hi
          rw [add_assoc, pred]
          simpa using chainShift_ch_bit h hp (by omega)
        case previous => simpa [hb, chainCommit_ch h hp] using previous
        all_goals simp [hb] }

/-- LH commits: EOUT takes the complete word, and HOLDC is loaded below HOLD_CYCLES. -/
theorem blockLegal_lh (h : BlockLegal s) (hp : s.ph = .lh) :
    BlockLegal (chainReact s (((s.setLatch true).setHoldc holdLoad).setPhase .hd)) := by
  obtain ⟨full, data⟩ := h.chain.full hp
  obtain ⟨high, last⟩ := h.pins.i4 hp
  have low : s.latch = false := h.pins.i1 (by simp [hp])
  exact {
    seq := by constructor <;> simp [last, Config.holdCycles]
    pins := by constructor <;> simp [high, data]
    chain := by constructor <;> simp [chainCommit, low, full] }

/-- HD counts, or hands the word on display over to the next position, whose predecessor this one is. -/
theorem blockLegal_hd (h : BlockLegal s) (hp : s.ph = .hd) : BlockLegal (chainReact s s.holdStep) := by
  rw [chainReact_noRise (by simp) (by simp)]
  have count : s.holdStep.holdc.toNat < Config.holdCycles := by
    have := h.seq.count
    rw [holdStep_holdc_toNat]
    omega
  by_cases hc : s.holdc = 0#Config.holdW
  · exact {
      seq := ⟨by simp [hc], by simp [hc], count⟩
      pins := by constructor <;> simp [hc, h.pins.i2 hp]
      chain := by constructor <;> simp [hc, h.chain.shown hp] }
  · exact {
      seq := ⟨by simp [hc], by simp [h.seq.hold hp], count⟩
      pins := by constructor <;> simp [hc, h.pins.i2 hp, h.pins.i5 hp]
      chain := by constructor <;> simp [hc, h.chain.shown hp] }

/-- Every edge, with the chain's reaction to it, keeps the invariant. -/
theorem blockLegal_edge (h : BlockLegal s) : BlockLegal (chainReact s (blockNext s)) := by
  cases hr : s.rst with
  | true => rw [blockNext_reset hr]; exact blockLegal_reset s
  | false =>
    cases hp : s.ph with
    | ll => rw [blockNext_ll hr hp]; exact blockLegal_ll h hp
    | cl => rw [blockNext_cl hr hp]; exact blockLegal_cl h hp
    | ds => rw [blockNext_ds hr hp]; exact blockLegal_ds h hp
    | ch => rw [blockNext_ch hr hp]; exact blockLegal_ch h hp
    | lh => rw [blockNext_lh hr hp]; exact blockLegal_lh h hp
    | hd => rw [blockNext_hd hr hp]; exact blockLegal_hd h hp

theorem stepTo_legal (h : Legal s) : Legal (stepTo s) :=
  BlockLegal.legal ((advanceWorld_sameBlock _).blockLegal (blockLegal_edge h.block))
    (advanceWorld_hostLegal ((blockNext_hostLegal h.host).congr rfl rfl))

end Sys2Proof.Machine
end

section
/-! SUPPORT. The obligations about the state: the invariant, and who writes which register (spec/10_state.md). -/

namespace Sys2Proof.Proofs

open Sys2Proof Sys2Proof.Machine

/-- Settles O38: the edge with the chain's reaction keeps the block's part of the invariant, phase by phase, and the outside world
keeps the host's part. -/
theorem stepKeepsTheStateLegal : Obligations.StepKeepsTheStateLegal :=
  fun s h => ⟨_, step_eq s, stepTo_legal h⟩

/-- Settles O39: the block holds its reset values, ElapsedSeconds is 0 and no tick read is pending. -/
theorem resetStateIsLegal : Obligations.ResetStateIsLegal :=
  (blockLegal_of_resetValues rfl rfl rfl rfl rfl rfl).legal ⟨by decide, nofun⟩

/-- Settles O10, from the inversion of exec: a row that sends a bit writes DATA and PH alone, and is DS or no micro-operation. -/
theorem rowsWriteOnlyTheirOwnRegisters : Obligations.RowsWriteOnlyTheirOwnRegisters := by
  intro i s t h
  obtain ⟨w, rfl, hi⟩ | ⟨rfl, rfl⟩ | ⟨rfl, rfl⟩ | ⟨rfl, rfl⟩ | ⟨rfl, rfl⟩ | ⟨rfl, rfl⟩ := exec_cases h
  case inl =>
    have hu : (encode i).1 = .uop → i = .ds := by
      obtain ⟨rfl, -⟩ | ⟨c, rfl, -⟩ | ⟨p, rfl, -⟩ := hi
      · exact fun _ => rfl
      · exact fun k => absurd k (encode_segRow c)
      · exact fun k => absurd k (encode_selRow p)
    simpa using fun k n => absurd (hu k) n
  case inr.inl => simp +contextual
  all_goals simp

/-- Settles O32: the capture puts QUAD_IN over Q, whatever Q held, and the chain does not look at Q. -/
theorem frameRegisterIsUnreadBeforeTheCapture : Obligations.FrameRegisterIsUnreadBeforeTheCapture := by
  intro s q hr hp h0
  refine ⟨_, step_eq s, (step_eq _).trans (congrArg Host.Outcome.next ?_)⟩
  have edge : blockNext { s with q := q } = blockNext s := by
    rw [blockNext_ll hr hp, blockNext_ll (s := { s with q := q }) hr hp]
    exact congrArg (State.setPhase · .cl) (capture_forgets_q ((s.setLatch false).setBitc 15#4) q h0)
  exact congrArg (fun t => advanceWorld (chainReact s t)) edge

/-- Settles O41, phase by phase: POS comes from the block's edge, and only HD's writes it. -/
theorem positionAdvancesOnlyAtTheEndOfTheHold : Obligations.PositionAdvancesOnlyAtTheEndOfTheHold := by
  refine fun s hr => ⟨_, step_eq s, ?_⟩
  cases hp : s.ph <;> simp [blockNext, hr, hp]

/-- Settles O42, phase by phase: Q comes from the block's edge, and only LL's writes it. -/
theorem onlyTheCaptureWritesTheFrameRegister : Obligations.OnlyTheCaptureWritesTheFrameRegister := by
  refine fun s hr => ⟨_, step_eq s, ?_⟩
  cases hp : s.ph
  case ll => by_cases h0 : s.pos = 0#2 <;> simp [blockNext_ll hr hp, h0]
  all_goals simp [blockNext, hr, hp]

end Sys2Proof.Proofs
end

section
/-! SUPPORT. The decoder inverted on its table (spec/30_encoding.md R88, R93), and what a placed row makes of the state (log 6, log 8). -/

namespace Sys2Proof

/-- Each row of the table stands under its own format and code, and its mask looks at the whole matched value (30_encoding.md R93). -/
theorem opcodeTable_row : ∀ r ∈ opcodeTable,
    encode r.instr = (r.format, r.pattern) ∧ r.mask = 2 ^ r.format.width - 1 := by decide

theorem decode_lt {f : Format} {v : Nat} {i : Instr} (h : decode f v = .ok i) : v < 2 ^ f.width := by
  unfold decode at h
  split at h
  · assumption
  · cases h

/-- What decodes is the encoding of its row: a row that applies has the value itself as its pattern (30_encoding.md R93). -/
theorem encode_of_decode {f : Format} {v : Nat} {i : Instr} (h : decode f v = .ok i) : encode i = (f, v) := by
  have hv := decode_lt h
  unfold decode at h
  rw [if_pos hv] at h
  split at h
  next r hr =>
    cases h
    obtain ⟨hcode, hmask⟩ := opcodeTable_row r (List.mem_of_find?_eq_some hr)
    obtain ⟨rfl, hpattern⟩ : r.format = f ∧ v &&& r.mask = r.pattern := by
      simpa [Row.applies] using List.find?_some hr
    rw [hcode, ← hpattern, hmask, Nat.and_two_pow_sub_one_eq_mod, Nat.mod_eq_of_lt hv]
  next => cases h

/-- The width of a format names that format alone (log 6). -/
theorem tableFormats_width (f : Format) : tableFormats f.width = [f] := by
  cases f <;> rfl

theorem decodeTableWord_width {f : Format} {v : Nat} {i : Instr} (h : decode f v = .ok i) :
    decodeTableWord f.width v = some i := by
  simp [decodeTableWord, tableFormats_width, firstRow, h]

theorem eq_segRow_of_decode {v : Nat} {i : Instr} (h : decode .segrom v = .ok i) : i = segRow (BitVec.ofNat 4 v) := by
  have hv : v % 16 = v := Nat.mod_eq_of_lt (decode_lt h)
  simp [segRow, hv, h]

theorem eq_selRow_of_decode {v : Nat} {i : Instr} (h : decode .selrom v = .ok i) : i = selRow (BitVec.ofNat 2 v) := by
  have hv : v % 4 = v := Nat.mod_eq_of_lt (decode_lt h)
  simp [selRow, hv, h]

end Sys2Proof

namespace Sys2Proof.Machine

/-- The row of the digit shown is the DS step (20_memory.md R53). -/
theorem exec_segRow_digit (s : State) : exec (segRow (digit s.q s.pos)) s = exec .ds s :=
  exec_segRow _ s

/-- The row of the position is the DS step (20_memory.md R53). -/
theorem exec_selRow_pos (s : State) : exec (selRow s.pos) s = exec .ds s :=
  exec_selRow _ s

theorem digit_setDigit (q : Quad) (p : Position) (c : DigitCode) : digit (setDigit q p c) p = c := by
  rcases position_cases p with rfl | rfl | rfl | rfl <;> rfl

/-- At its format's own width a row is placed by the format and code it was decoded from. -/
theorem withFetchWord_of_decode (s : State) {f : Format} {v : Nat} {i : Instr} (h : decode f v = .ok i) :
    s.withFetchWord f.width v = placeRow s f v := by
  simp [State.withFetchWord, placeWord, decodeTableWord_width h, encode_of_decode h]

theorem placeRow_rst (s : State) (f : Format) (v : Nat) : (placeRow s f v).rst = false := by
  cases f <;> rfl

/-- A placed micro-operation is the one PH then names (30_encoding.md R88). -/
theorem fetch_placeRow_uop (s : State) {v : Nat} {i : Instr} (h : decode .uop v = .ok i) : fetch (placeRow s .uop v) = i := by
  have hcode := encode_of_decode h
  rcases instr_cases i with (rfl | rfl | rfl | rfl | rfl | rfl) | ⟨c, rfl⟩ | ⟨p, rfl⟩
  case inr.inl => exact absurd (congrArg Prod.fst hcode) (encode_segRow c)
  case inr.inr => exact absurd (congrArg Prod.fst hcode) (encode_selRow p)
  all_goals cases hcode; rfl

/-- In the state that places it a row does what the fetched micro-operation does: it is that one, or the ROM row DS then addresses. -/
theorem exec_placeRow (s : State) {f : Format} {v : Nat} {i : Instr} (h : decode f v = .ok i) :
    exec i (placeRow s f v) = exec (fetch (placeRow s f v)) (placeRow s f v) := by
  cases f with
  | uop => rw [fetch_placeRow_uop s h]
  | segrom =>
    have addressed : digit (placeRow s .segrom v).q (placeRow s .segrom v).pos = BitVec.ofNat 4 v := digit_setDigit _ _ _
    rw [eq_segRow_of_decode h, ← addressed]
    exact exec_segRow_digit _
  | selrom =>
    rw [eq_selRow_of_decode h]
    exact exec_selRow_pos (placeRow s .selrom v)

end Sys2Proof.Machine
end

section
/-! SUPPORT. The bit a ROM row sends, by the two bytes of the word (spec/20_memory.md R51 to R53; spec/30_encoding.md R86). -/

namespace Sys2Proof.Machine

/-- Sending bit BITC of a word takes it from the segment byte for BITC = 15 to 8 and from the select byte below. -/
theorem sendBit_serialWord (s : State) (a b : Byte) : s.sendBit (serialWord a b) = { s with
    data := if 8 ≤ s.bitc.toNat then a.getLsbD (s.bitc.toNat - 8) else b.getLsbD s.bitc.toNat, ph := .ch } := by
  simp only [State.sendBit, State.setData, State.setPhase, serialWord_bit, ← not_lt, ite_not]

theorem exec_segRow_bit (c : DigitCode) (s : State) : exec (segRow c) s = .next { s with
    data := if 8 ≤ s.bitc.toNat then (enc c (dpf s.q s.pos)).getLsbD (s.bitc.toNat - 8)
      else (sel s.pos).getLsbD s.bitc.toNat,
    ph := .ch } := by
  rw [exec_segRow, wordWithSegRow, sendBit_serialWord]

theorem exec_selRow_bit (p : Position) (s : State) : exec (selRow p) s = .next { s with
    data := if 8 ≤ s.bitc.toNat then (enc (digit s.q s.pos) (dpf s.q s.pos)).getLsbD (s.bitc.toNat - 8)
      else (sel p).getLsbD s.bitc.toNat,
    ph := .ch } := by
  rw [exec_selRow, wordWithSelRow, sendBit_serialWord]

end Sys2Proof.Machine
end

section
/-! SUPPORT. The pins and the display chain after a step (spec/20_memory.md R64, R65). -/

namespace Sys2Proof.Machine

@[simp] theorem stepTo_ph (s : State) : (stepTo s).ph = (blockNext s).ph := by
  simp [stepTo, afterBlock]

@[simp] theorem stepTo_bitc (s : State) : (stepTo s).bitc = (blockNext s).bitc := by
  simp [stepTo, afterBlock]

@[simp] theorem stepTo_latch (s : State) : (stepTo s).latch = (blockNext s).latch := by
  simp [stepTo, afterBlock]

@[simp] theorem stepTo_sclk (s : State) : (stepTo s).sclk = (blockNext s).sclk := by
  simp [stepTo, afterBlock]

@[simp] theorem stepTo_data (s : State) : (stepTo s).data = (blockNext s).data := by
  simp [stepTo, afterBlock]

/-- The two stages of the chain are no part of the block: its edge leaves them to the chain's own reaction (70_reset_and_hazards.md R232). -/
theorem blockNext_chain (s : State) : (blockNext s).esr = s.esr ∧ (blockNext s).eout = s.eout := by
  cases hr : s.rst with
  | true => rw [blockNext_reset hr]; exact ⟨rfl, rfl⟩
  | false =>
    have k := exec_sameEnvironment (exec_fetch hr)
    exact ⟨k.esr, k.eout⟩

/-- The model's shift is the one of R64: ESR moves up by one bit and DATA comes in at the bottom. -/
theorem shift_eq_append (w : SerialWord) (b : Bool) :
    w <<< 1 ||| BitVec.setWidth 16 (BitVec.ofBool b) = w.extractLsb' 0 15 ++ BitVec.ofBool b := by
  refine BitVec.eq_of_getLsbD_eq fun i hi => ?_
  rw [shift_bit w b i hi, BitVec.getLsbD_append]
  cases i with
  | zero => simp
  | succ i => simp [show i < 15 by omega]

/-- When SCLK rises, ESR takes DATA in (20_memory.md R64). -/
theorem stepTo_esr_rise {s : State} (hb : s.sclk = false) (ha : (stepTo s).sclk = true) :
    (stepTo s).esr = s.esr.extractLsb' 0 15 ++ BitVec.ofBool (stepTo s).data := by
  rw [stepTo_sclk] at ha
  rw [stepTo_data, ← shift_eq_append, ← (blockNext_chain s).1]
  simp [stepTo, afterBlock, chainShift, hb, ha]

/-- When SCLK does not rise, ESR keeps its value (20_memory.md R64). -/
theorem stepTo_esr_keep {s : State} (h : ¬(s.sclk = false ∧ (stepTo s).sclk = true)) : (stepTo s).esr = s.esr := by
  rw [stepTo_sclk] at h
  rw [← (blockNext_chain s).1]
  simpa [stepTo, afterBlock, chainShift] using fun hb ha => absurd ⟨hb, ha⟩ h

/-- When LATCH rises, EOUT takes ESR (20_memory.md R65). -/
theorem stepTo_eout_rise {s : State} (hb : s.latch = false) (ha : (stepTo s).latch = true) : (stepTo s).eout = s.esr := by
  rw [stepTo_latch] at ha
  simp [stepTo, afterBlock, chainCommit, hb, ha]

/-- When LATCH does not rise, EOUT keeps its value (20_memory.md R65). -/
theorem stepTo_eout_keep {s : State} (h : ¬(s.latch = false ∧ (stepTo s).latch = true)) : (stepTo s).eout = s.eout := by
  rw [stepTo_latch] at h
  rw [← (blockNext_chain s).2]
  simpa [stepTo, afterBlock, chainCommit] using fun hb ha => absurd ⟨hb, ha⟩ h

end Sys2Proof.Machine
end

section
/-! SUPPORT. The transfer of one word, from the LL step to the LH step, whatever the chain and the hold counter held before
(spec/20_memory.md R56, R58, R66). -/

namespace Sys2Proof.Machine

theorem endBit_last {s : State} (hb : s.bitc = 0#4) : s.endBit = s.setPhase .lh := if_pos hb

theorem endBit_next {s : State} (hb : s.bitc ≠ 0#4) : s.endBit = (s.setBitc (s.bitc - 1#4)).setPhase .cl := if_neg hb

/-- How many steps the transfer in progress still has before its LH step (42_sequencer.md R149). -/
def stepsLeft (s : State) : Nat :=
  match s.ph with
  | .cl => 3 * s.bitc.toNat + 3
  | .ds => 3 * s.bitc.toNat + 2
  | .ch => 3 * s.bitc.toNat + 1
  | _ => 0

/-- The state with the hold counter and the display as a run from a legal state would have them: `BlockLegal` of it says of `s` all
that the invariant says of the transfer, and nothing of what was there before. -/
def State.withLegalDisplay (s : State) : State :=
  { s with holdc := 0#Config.holdW, eout := word s.q (s.pos - 1#2) }

/-- The word `w` is in transfer while EOUT shows `o`. One LL step from any state brings it about. -/
structure Sending (w o : SerialWord) (s : State) : Prop where
  busy : s.ph = .cl ∨ s.ph = .ds ∨ s.ph = .ch ∨ s.ph = .lh
  legal : BlockLegal s.withLegalDisplay
  word : word s.q s.pos = w
  eout : s.eout = o

variable {s : State} {w o : SerialWord}

theorem Sending.latch (h : Sending w o s) : s.latch = false := h.legal.pins.i1 h.busy

/-- A transfer with no step left stands at its LH step. -/
theorem Sending.ph_lh (h : Sending w o s) (hn : stepsLeft s = 0) : s.ph = .lh := by
  rcases h.busy with hp | hp | hp | hp
  case inr.inr.inr => exact hp
  all_goals simp [stepsLeft, hp] at hn

/-- A transfer with steps left is at one of the three micro-operations of a bit. -/
theorem phase_of_stepsLeft (hn : stepsLeft s ≠ 0) : s.ph = .cl ∨ s.ph = .ds ∨ s.ph = .ch := by
  cases hp : s.ph <;> simp_all [stepsLeft]

/-- Each step of a transfer is one step less (42_sequencer.md R149). -/
theorem stepsLeft_stepTo (hr : s.rst = false) (hn : stepsLeft s ≠ 0) : stepsLeft (stepTo s) + 1 = stepsLeft s := by
  rcases phase_of_stepsLeft hn with hp | hp | hp
  · simp [stepsLeft, blockNext_cl hr hp, hp]
  · simp [stepsLeft, blockNext_ds hr hp, hp]
  · have edge := blockNext_ch hr hp
    by_cases hb : s.bitc = 0#4
    · simp [stepsLeft, edge, hp, hb]
    · have pred := endBit_bitc_toNat (s := s.setSclk true) hb
      have phase : (stepTo s).ph = .cl := by simp [edge, hb]
      simp only [stepsLeft, phase, hp, stepTo_bitc, edge]
      simp only [setSclk_bitc] at pred
      omega

/-- What the three micro-operations of a bit keep, and that they lead to one of them or to LH (42_sequencer.md R142 to R144). -/
theorem blockNext_inTransfer (hr : s.rst = false) (hn : stepsLeft s ≠ 0) :
    (blockNext s).pos = s.pos ∧ (blockNext s).q = s.q ∧ (blockNext s).latch = s.latch ∧
      ((blockNext s).ph = .cl ∨ (blockNext s).ph = .ds ∨ (blockNext s).ph = .ch ∨ (blockNext s).ph = .lh) := by
  rcases phase_of_stepsLeft hn with hp | hp | hp
  · simp [blockNext_cl hr hp]
  · simp [blockNext_ds hr hp]
  · by_cases hb : s.bitc = 0#4 <;> simp [blockNext_ch hr hp, hb]

/-- The micro-operations of a bit do not look at the hold counter or the display: these can be replaced before or after. -/
theorem blockNext_withLegalDisplay (hr : s.rst = false) (hn : stepsLeft s ≠ 0) :
    blockNext s.withLegalDisplay = (blockNext s).withLegalDisplay := by
  rcases phase_of_stepsLeft hn with hp | hp | hp
  · rw [blockNext_cl hr hp, blockNext_cl (s := s.withLegalDisplay) hr hp]; rfl
  · rw [blockNext_ds hr hp, blockNext_ds (s := s.withLegalDisplay) hr hp]; rfl
  · rw [blockNext_ch hr hp, blockNext_ch (s := s.withLegalDisplay) hr hp]
    by_cases hb : s.bitc = 0#4
    · rw [endBit_last (s := s.setSclk true) hb, endBit_last (s := s.withLegalDisplay.setSclk true) hb]; rfl
    · rw [endBit_next (s := s.setSclk true) hb, endBit_next (s := s.withLegalDisplay.setSclk true) hb]; rfl

/-- Nor does the chain, where LATCH stays low. -/
theorem withLegalDisplay_stepTo (hr : s.rst = false) (hn : stepsLeft s ≠ 0) (hl : s.latch = false) :
    SameBlock (chainReact s.withLegalDisplay (blockNext s.withLegalDisplay)) (stepTo s).withLegalDisplay := by
  obtain ⟨-, -, low, -⟩ := blockNext_inTransfer hr hn
  rw [hl] at low
  rw [blockNext_withLegalDisplay hr hn]
  constructor <;> simp [State.withLegalDisplay, stepTo, afterBlock, chainShift, chainCommit, low]

/-- LL begins the transfer with none of the sixteen bits shifted. -/
theorem sending_ll (hr : s.rst = false) (hp : s.ph = .ll) :
    Sending (word (if s.pos = 0#2 then s.quadIn else s.q) s.pos) s.eout (stepTo s) ∧ stepsLeft (stepTo s) = 48 := by
  have edge := blockNext_ll hr hp
  have q : (stepTo s).q = if s.pos = 0#2 then s.quadIn else s.q := by
    rw [stepTo_q, edge]
    exact capture_q _
  refine ⟨⟨?busy, ⟨?seq, ?pins, ?chain⟩, ?word, stepTo_eout_keep (by simp [edge])⟩, ?left⟩
  case seq => constructor <;> simp [State.withLegalDisplay, edge, Config.holdCycles]
  case pins => constructor <;> simp [State.withLegalDisplay, edge]
  case chain => constructor <;> simp [State.withLegalDisplay, edge]
  case word => rw [q, stepTo_pos, edge]; simp
  case busy => simp [edge]
  case left => simp [stepsLeft, edge]

theorem sending_step (h : Sending w o s) (hr : s.rst = false) (hn : stepsLeft s ≠ 0) : Sending w o (stepTo s) := by
  obtain ⟨pos, q, latch, busy⟩ := blockNext_inTransfer hr hn
  refine ⟨by simpa using busy, ?legal, ?word, ?eout⟩
  case legal => exact (withLegalDisplay_stepTo hr hn h.latch).blockLegal (blockLegal_edge h.legal)
  case word => rw [stepTo_q, stepTo_pos, q, pos, h.word]
  case eout => exact (stepTo_eout_keep (by simp [latch])).trans h.eout

/-- As long as nothing resets, the transfer runs on to its LH step. -/
theorem sending_stepsTo (n : Nat) : ∀ {s : State}, Sending w o s → noResetFor n s → n ≤ stepsLeft s →
    Sending w o (stepsTo n s) ∧ stepsLeft (stepsTo n s) + n = stepsLeft s := by
  induction n with
  | zero => exact fun h _ _ => ⟨h, rfl⟩
  | succ n ih =>
    intro s h hr hn
    have next := sending_step h hr.1 (by omega)
    have less := stepsLeft_stepTo hr.1 (show stepsLeft s ≠ 0 by omega)
    obtain ⟨last, left⟩ := ih next (noResetFor_stepTo hr) (by omega)
    exact ⟨last, by simp only [stepsTo]; omega⟩

/-- At its LH step the whole word stands in ESR. -/
theorem Sending.full (h : Sending w o s) (hp : s.ph = .lh) : s.esr = w :=
  (h.legal.chain.full hp).1.trans h.word

/-- The LH step commits the word that was sent (20_memory.md R65, R66). -/
theorem Sending.commits (h : Sending w o s) (hr : s.rst = false) (hp : s.ph = .lh) :
    (stepTo s).ph = .hd ∧ (stepTo s).eout = w := by
  have edge := blockNext_lh hr hp
  exact ⟨by simp [edge], (stepTo_eout_rise h.latch (by simp [edge])).trans (h.full hp)⟩

end Sys2Proof.Machine
end

section
/-! SUPPORT. The obligations about the display chain, the pins and the two ROMs (spec/20_memory.md). -/

namespace Sys2Proof.Proofs

open Sys2Proof Sys2Proof.Machine

/-- Settles O5: the placed state's edge is the fetched micro-operation's, and in that state the row does the same. -/
theorem placedRowIsPerformedNext : Obligations.PlacedRowIsPerformedNext := by
  intro s f v i h
  rw [withFetchWord_of_decode s h]
  exact ⟨_, (exec_placeRow s h).trans (exec_fetch (placeRow_rst s f v)), step_eq _⟩

/-- Settles O33: the two cases of the chain's reaction to SCLK, DATA being the one after the step. -/
theorem chainShiftsOnRisingShiftClock : Obligations.ChainShiftsOnRisingShiftClock :=
  fun s => ⟨_, step_eq s, stepTo_esr_rise, stepTo_esr_keep⟩

/-- Settles O34: the two cases of the chain's reaction to LATCH. -/
theorem chainCommitsOnRisingLatch : Obligations.ChainCommitsOnRisingLatch :=
  fun s => ⟨_, step_eq s, stepTo_eout_rise, stepTo_eout_keep⟩

/-- Settles O36, phase by phase: DS alone writes DATA, CH alone raises SCLK and LH alone raises LATCH, and the invariants of the pins
say what the other two lines are there. -/
theorem legalStatesGiveLegalEdges : Obligations.LegalStatesGiveLegalEdges := by
  refine fun s h hr => ⟨_, step_eq s, ?_⟩
  cases hp : s.ph with
  | ll => constructor <;> simp +contextual [blockNext_ll hr hp]
  | cl => constructor <;> simp +contextual [blockNext_cl hr hp]
  | ds =>
    have low : s.sclk = false ∧ s.latch = false := ⟨h.pins.i3 (.inl hp), h.pins.i1 (by simp [hp])⟩
    constructor <;> simp [blockNext_ds hr hp, low]
  | ch =>
    have low : s.latch = false := h.pins.i1 (by simp [hp])
    constructor <;> simp [blockNext_ch hr hp, low]
  | lh =>
    have high : s.sclk = true := (h.pins.i4 hp).1
    constructor <;> simp [blockNext_lh hr hp, high]
  | hd => constructor <;> simp +contextual [blockNext_hd hr hp]

/-- Settles O45: the LL step begins a transfer of 48 steps, which keeps EOUT and ends with the whole word in ESR; the LH step commits
it. -/
theorem positionShiftsItsWordThenCommits : Obligations.PositionShiftsItsWordThenCommits := by
  intro s hp hr
  obtain ⟨begun, left⟩ := sending_ll hr.1 hp
  have sending {n : Nat} (hn : n ≤ 48) := sending_stepsTo n begun (noResetFor_mono (by omega) (noResetFor_stepTo hr)) (by omega)
  obtain ⟨ready, none_left⟩ := sending le_rfl
  have lh : (stepsTo 49 s).ph = .lh := ready.ph_lh (by omega)
  have rst : (stepsTo 49 s).rst = false := (noResetFor_stepsTo (m := 49) (n := 1) hr).1
  refine ⟨fun k hk => ⟨_, run_eq k s, ?keeps⟩, ⟨_, run_eq 49 s, lh, ready.full lh⟩, _, run_eq 50 s, ?commits⟩
  case keeps =>
    cases k with
    | zero => rfl
    | succ k => exact (sending (by omega)).1.eout
  case commits =>
    rw [stepsTo_add 49 1]
    exact ready.commits rst lh

/-- Settles O17: the row of each digit code has the two bytes the spec gives. -/
theorem digitRowsSendTheirSegmentBytes : Obligations.DigitRowsSendTheirSegmentBytes := by
  intro r hr s
  have row : ∃ c, r.1 = segRow c ∧ ∀ dp, enc c dp = if dp then r.2.2 else r.2.1 := by
    clear s; revert r; decide
  obtain ⟨c, hrow, hbyte⟩ := row
  rw [hrow, exec_segRow_bit, hbyte]

/-- Settles O18: the six rows have one byte, all segments off. -/
theorem blankAndUndefinedRowsSendAllOff : Obligations.BlankAndUndefinedRowsSendAllOff := by
  intro i hi s
  have row : ∃ c, i = segRow c ∧ ∀ dp, enc c dp = if dp then 0x7F else 0xFF := by
    clear s; revert i; decide
  obtain ⟨c, rfl, hbyte⟩ := row
  rw [exec_segRow_bit, hbyte]

/-- Settles O19: the row of each position has the byte the spec gives. -/
theorem selectRowsSendTheirSelectBytes : Obligations.SelectRowsSendTheirSelectBytes := by
  intro r hr s
  have row : ∃ p, r.1 = selRow p ∧ sel p = r.2 := by
    clear s; revert r; decide
  obtain ⟨p, hrow, hbyte⟩ := row
  rw [hrow, exec_selRow_bit, hbyte]

/-- Settles O23: the table has four entries. -/
theorem selectTableIsTheSpecs : Obligations.SelectTableIsTheSpecs :=
  ⟨rfl, rfl, rfl, rfl, by decide⟩

end Sys2Proof.Proofs
end

section
/-! SUPPORT. The encoder and the decoder as inverses, the phase code, and the packing of QUAD_IN as a bijection (spec/30_encoding.md R83, R88, R89, R93, R95). -/

namespace Sys2Proof

theorem decode_encode (i : Instr) : decode (encode i).1 (encode i).2 = .ok i := by
  cases i <;> rfl

theorem codeLegal_encode (i : Instr) : (encode i).1.codeLegal (encode i).2 = true := by
  cases i <;> rfl

/-- A legal code fits the width of its format (30_encoding.md R93). -/
theorem codeLegal_lt {f : Format} {v : Nat} (h : f.codeLegal v = true) : v < 2 ^ f.width := by
  cases f with
  | uop => exact (of_decide_eq_true h : v < 6).trans (by decide)
  | segrom => exact of_decide_eq_true h
  | selrom => exact of_decide_eq_true h

/-- Every legal code has its row in the table (30_encoding.md R89, R94 to R96). -/
theorem row_of_codeLegal (f : Format) :
    ∀ v < 2 ^ f.width, f.codeLegal v = true → ∃ r ∈ opcodeTable, decode f v = .ok r.instr := by
  cases f <;> decide

/-- The legal codes of a format are those the decoder answers: a row's own code is legal, and every legal code has a row. -/
theorem codeLegal_iff_decode (f : Format) (v : Nat) : f.codeLegal v = true ↔ ∃ i, decode f v = .ok i := by
  constructor
  · intro h
    obtain ⟨r, -, hr⟩ := row_of_codeLegal f v (codeLegal_lt h) h
    exact ⟨r.instr, hr⟩
  · rintro ⟨i, h⟩
    simpa [encode_of_decode h] using codeLegal_encode i

theorem phaseOfCode_phaseCode (p : Phase) : phaseOfCode (phaseCode p) = some p := by
  cases p <;> rfl

/-- The reserved codes are those without a phase (30_encoding.md R95). -/
theorem phaseOfCode_eq_none_iff : ∀ c : BitVec 3, phaseOfCode c = none ↔ c = 6 ∨ c = 7 := by decide

/-- Two quads whose five lines are equal as numbers are equal. -/
theorem quad_eq_of_toNat_eq {q r : Quad} (h0 : q.d0.toNat = r.d0.toNat) (h1 : q.d1.toNat = r.d1.toNat)
    (h2 : q.d2.toNat = r.d2.toNat) (h3 : q.d3.toNat = r.d3.toNat) (hp : q.dp.toNat = r.dp.toNat) : q = r := by
  cases q; cases r
  simp [BitVec.toNat_eq, *]

theorem unpack_pack (q : Quad) : Quad.unpack q.pack = q := by
  obtain ⟨h0, h1, h2, h3, hp⟩ := unpack_toNat q.pack
  rw [pack_toNat] at h0 h1 h2 h3 hp
  apply quad_eq_of_toNat_eq <;> omega

theorem pack_unpack (v : BitVec 19) : (Quad.unpack v).pack = v := by
  obtain ⟨h0, h1, h2, h3, hp⟩ := unpack_toNat v
  apply BitVec.eq_of_toNat_eq
  rw [pack_toNat, h0, h1, h2, h3, hp]
  omega

end Sys2Proof

namespace Sys2Proof.Machine

/-- The code in PH decodes to the micro-operation that is fetched (30_encoding.md R88, 42_sequencer.md R140). -/
theorem decode_phaseCode (s : State) : decode .uop (phaseCode s.ph).toNat = .ok (fetch s) := by
  unfold fetch
  cases s.ph <;> rfl

end Sys2Proof.Machine
end

section
/-! SUPPORT. The obligations about the encoding (spec/30_encoding.md). -/

namespace Sys2Proof.Proofs

open Sys2Proof Sys2Proof.Machine

/-- Settles O2: the encoder inverts the decoder on the rows of the table, and every row's code is a legal one. -/
theorem decodeAndEncodeAgree : Obligations.DecodeAndEncodeAgree :=
  ⟨fun i _ => decode_encode i, fun _ _ _ => encode_of_decode, codeLegal_iff_decode⟩

/-- Settles O4: as numbers the lines are the digits of the packed value, in base 16 with in_dp on top. -/
theorem quadPackingRoundTrips : Obligations.QuadPackingRoundTrips := by
  refine ⟨unpack_pack, pack_unpack, fun q => ?_⟩
  rw [pack_toNat]
  omega

/-- Settles O1: eleven values of the decoder. -/
theorem writtenOutCodesDecode : Obligations.WrittenOutCodesDecode :=
  ⟨rfl, rfl, rfl, rfl, rfl, rfl, rfl, rfl, rfl, rfl, rfl⟩

/-- Settles O3: PH holds a phase, and the phase's code is a micro-operation's. -/
theorem phaseCodesAreTheSixLegalOnes : Obligations.PhaseCodesAreTheSixLegalOnes :=
  fun s => ⟨decode_phaseCode s, phaseOfCode_phaseCode s.ph, phaseOfCode_eq_none_iff⟩

end Sys2Proof.Proofs
end

section
/-! SUPPORT. The decimal-point modifier bit by bit, and the rows of SEGROM as a code for the digit classes (spec/40_segment_encoder.md R113 to R118). -/

namespace Sys2Proof.Machine

@[simp] theorem dpmod_false (b : Byte) : dpmod b false = b := rfl

theorem dpmod_true (b : Byte) : dpmod b true = b &&& 0x7F := rfl

theorem enc_true (c : DigitCode) : enc c true = enc c false &&& 0x7F := rfl

/-- The bits the mask of the modifier keeps (40_segment_encoder.md R113). -/
theorem getLsbD_dpMask : ∀ i < 8, (0x7F : Byte).getLsbD i = !decide (i = 7) := by decide

/-- The modifier clears bit 7 when the flag is set, and nothing else (40_segment_encoder.md R113). -/
theorem getLsbD_dpmod (b : Byte) (dp : Bool) (i : Nat) :
    (dpmod b dp).getLsbD i = (b.getLsbD i && !(dp && decide (i = 7))) := by
  cases dp with
  | false => simp
  | true =>
    rw [dpmod_true, BitVec.getLsbD_and, Bool.true_and]
    rcases Nat.lt_or_ge i 8 with hi | hi
    · rw [getLsbD_dpMask i hi]
    · simp [BitVec.getLsbD_of_ge b i hi]

theorem dpmod_dpmod (b : Byte) (dp : Bool) : dpmod (dpmod b dp) dp = dpmod b dp := by
  apply BitVec.eq_of_getLsbD_eq
  simp [getLsbD_dpmod]

/-- Bit 7 of a modified byte tells the flag where the byte itself has bit 7 set. -/
theorem dpmod_bit7 {b : Byte} (hb : b.getLsbD 7 = true) (dp : Bool) : (dpmod b dp).getLsbD 7 = !dp := by
  rw [getLsbD_dpmod, hb]
  simp

/-- Of bytes with bit 7 set the modifier loses nothing: bit 7 tells the flag, the other bits tell the byte. -/
theorem dpmod_eq_iff {b b' : Byte} (hb : b.getLsbD 7 = true) (hb' : b'.getLsbD 7 = true) (dp dp' : Bool) :
    dpmod b dp = dpmod b' dp' ↔ dp = dp' ∧ b = b' := by
  constructor
  · intro h
    have bits (i : Nat) : (dpmod b dp).getLsbD i = (dpmod b' dp').getLsbD i := by rw [h]
    have flags : dp = dp' := by simpa only [dpmod_bit7 hb, dpmod_bit7 hb', Bool.not_inj_iff] using bits 7
    refine ⟨flags, BitVec.eq_of_getLsbD_eq fun i _ => ?_⟩
    by_cases hi : i = 7
    · rw [hi, hb, hb']
    · simpa [getLsbD_dpmod, hi] using bits i
  · rintro ⟨rfl, rfl⟩
    rfl

/-- Every row of SEGROM leaves the decimal point dark (40_segment_encoder.md R116). -/
theorem readSegRom_bit7 : ∀ c : DigitCode, (readSegRom c).getLsbD 7 = true := by decide

/-- The ten digits have ten different rows, and the codes above 9 share one that no digit has (40_segment_encoder.md R116). -/
theorem readSegRom_eq_iff :
    ∀ c c' : DigitCode, readSegRom c = readSegRom c' ↔ c = c' ∨ (9 < c.toNat ∧ 9 < c'.toNat) := by decide

theorem enc_bit7 (c : DigitCode) (dp : Bool) : (enc c dp).getLsbD 7 = !dp :=
  dpmod_bit7 (readSegRom_bit7 c) dp

theorem enc_eq_iff (c c' : DigitCode) (dp dp' : Bool) :
    enc c dp = enc c' dp' ↔ dp = dp' ∧ (c = c' ∨ (9 < c.toNat ∧ 9 < c'.toNat)) := by
  rw [← readSegRom_eq_iff]
  exact dpmod_eq_iff (readSegRom_bit7 c) (readSegRom_bit7 c') dp dp'

end Sys2Proof.Machine
end

section
/-! SUPPORT. The obligations about the segment encoder (spec/40_segment_encoder.md). -/

namespace Sys2Proof.Proofs

open Sys2Proof Sys2Proof.Machine

/-- Settles O20: the flag's effect is the modifier's, and the table is SEGROM's sixteen rows, plain and modified. -/
theorem encoderTableIsTheSpecs : Obligations.EncoderTableIsTheSpecs :=
  ⟨enc_true, rfl, rfl⟩

/-- Settles O21: every row of SEGROM has bit 7 set, so the modifier loses nothing of it. -/
theorem encoderIsInjectiveUpToBlank : Obligations.EncoderIsInjectiveUpToBlank :=
  fun c c' dp dp' => ⟨enc_eq_iff c c' dp dp', enc_bit7 c dp⟩

/-- Settles O22: read off the modified byte bit by bit. -/
theorem modifierClearsOnlyBitSeven : Obligations.ModifierClearsOnlyBitSeven := by
  refine fun b => ⟨dpmod_false b, dpmod_true b, ?bit7, fun i hi => ?others, dpmod_dpmod b true⟩
  case bit7 => rw [getLsbD_dpmod]; simp
  case others => simp [getLsbD_dpmod, Nat.ne_of_lt hi]

end Sys2Proof.Proofs
end

section
/-! SUPPORT. The serial word field by field, and what an observer reads of it (spec/41_digit_select.md R125 to R129). -/

namespace Sys2Proof.Machine

/-- The flag of a position comes from in_dp alone (41_digit_select.md R126). -/
theorem dpf_congr {q r : Quad} (h : q.dp = r.dp) (p : Position) : dpf q p = dpf r p := by
  simp only [dpf, h]

/-- A field of the word within bits 7:0 is that field of the select byte. -/
theorem word_selField (q : Quad) (p : Position) {i n : Nat} (h : i + n ≤ 8) :
    (word q p).extractLsb' i n = (sel p).extractLsb' i n :=
  BitVec.extractLsb'_append_eq_of_add_le h

/-- A field of the word within bits 15:8 is a field of the segment byte, eight bits lower. -/
theorem word_segField (q : Quad) (p : Position) {i n : Nat} (h : 8 ≤ i) :
    (word q p).extractLsb' i n = (enc (digit q p) (dpf q p)).extractLsb' (i - 8) n :=
  BitVec.extractLsb'_append_eq_of_le h

theorem word_segByte (q : Quad) (p : Position) : (word q p).extractLsb' 8 8 = enc (digit q p) (dpf q p) :=
  BitVec.extractLsb'_append_eq_left

theorem word_selByte (q : Quad) (p : Position) : (word q p).extractLsb' 0 8 = sel p :=
  BitVec.extractLsb'_append_eq_right

/-- Of bits 3:0 of the word exactly the one of its position is set (41_digit_select.md R127). -/
theorem word_lowBit (q : Quad) (p r : Position) : (word q p).getLsbD r.toNat = decide (r = p) := by
  rw [word_bit, if_pos (by omega), sel_low_bit]

/-- Bit 15 of the word is the complement of the position's flag (41_digit_select.md R127). -/
theorem word_bit15 (q : Quad) (p : Position) : (word q p).getLsbD 15 = !dpf q p :=
  (word_bit q p 15).trans (enc_bit7 _ _)

theorem sel_highNibble : ∀ p : Position, (sel p).extractLsb' 4 4 = 0xF := by decide

/-- 0xF1 is the least select byte (20_memory.md R52). -/
theorem le_sel : ∀ p : Position, 0xF1 ≤ (sel p).toNat := by decide

/-- A word is no less than its select byte, which is its remainder modulo 256. -/
theorem sel_le_word (q : Quad) (p : Position) : (sel p).toNat ≤ (word q p).toNat := by
  rw [← word_selByte q p, BitVec.extractLsb'_toNat]
  exact Nat.mod_le _ _

/-- The modifier does not touch the seven segment bits (40_segment_encoder.md R113). -/
theorem enc_segments (c : DigitCode) (dp : Bool) : (enc c dp).extractLsb' 0 7 = (readSegRom c).extractLsb' 0 7 := by
  refine BitVec.eq_of_getLsbD_eq fun i hi => ?_
  simp [enc, getLsbD_dpmod, Nat.ne_of_lt hi]

/-- The four select bytes have four different low nibbles, each with a single 1. -/
theorem readPosition_word (q : Quad) (p : Position) : readPosition (word q p) = some p := by
  rw [readPosition, word_selField q p (by decide)]
  clear q
  revert p
  decide

/-- The code read is the digit's own, or Blank for the six codes that share its row (40_segment_encoder.md R116). -/
theorem readCode_word (q : Quad) (p : Position) :
    readCode (word q p) = some (if 9 < (digit q p).toNat then 15 else digit q p) := by
  rw [readCode, word_segField q p le_rfl, enc_segments]
  generalize digit q p = c
  clear q p
  revert c
  decide

/-- Reading a code above 9 as Blank keeps its class. -/
theorem digitClass_blank : ∀ c : DigitCode, digitClass (if 9 < c.toNat then 15 else c) = digitClass c := by decide

theorem readWord_eq_some {w : SerialWord} {p : Position} {c : DigitCode} (hp : readPosition w = some p)
    (hc : readCode w = some c) : readWord w = some ⟨p, !w.getLsbD 15, digitClass c⟩ := by
  simp only [readWord, hp, hc]

/-- A module is powered by a word exactly when it is the word's position (20_memory.md R67). -/
theorem onlyModulePowered_word (q : Quad) (p : Position) : onlyModulePowered (word q p) p := by
  intro r
  rw [modulePowered, word_lowBit, decide_eq_true_iff]

/-- A word lights the segments whose bits are 0 in its segment byte (20_memory.md R67). -/
theorem segmentLit_word (q : Quad) (p : Position) (b : BitVec 3) :
    segmentLit (word q p) b = !(enc (digit q p) (dpf q p)).getLsbD b.toNat := by
  rw [segmentLit, word_bit, if_neg (by omega), Nat.add_sub_cancel_left]

end Sys2Proof.Machine
end

section
/-! SUPPORT. The obligations about the digit select and the serial word (spec/41_digit_select.md). -/

namespace Sys2Proof.Proofs

open Sys2Proof Sys2Proof.Machine

/-- Settles O25: the two bytes of the word. Bits 3:0 tell two positions apart. -/
theorem wordIsSegmentThenSelect : Obligations.WordIsSegmentThenSelect := by
  refine ⟨fun q p => ⟨word_segByte q p, word_selByte q p⟩, fun _ _ => rfl, ?ownDigit, ?positions, ?clock⟩
  case ownDigit =>
    intro q r p hdp hd
    rw [word, word, hd, dpf_congr hdp]
  case positions =>
    intro q r p p' h
    have bit : (word q p).getLsbD p.toNat = (word r p').getLsbD p.toNat := by rw [h]
    simpa [word_lowBit] using bit
  case clock =>
    rintro ⟨d0, d1, d2, d3, dp⟩ rfl rfl rfl rfl rfl
    decide

/-- Settles O26: the segment byte is the encoder's, and the rest is the select byte's. -/
theorem wordStaysInItsRange : Obligations.WordStaysInItsRange := by
  intro q p
  refine ⟨⟨_, _, word_segByte q p⟩, ?noPoint, ?highNibble, ⟨p, fun r => ?oneBit⟩, ?bound, ?bit15⟩
  case noPoint =>
    rintro rfl
    exact ⟨_, word_segByte q 3#2⟩
  case highNibble => rw [word_selField q p le_rfl, sel_highNibble]
  case oneBit => rw [word_lowBit, decide_eq_true_iff]
  case bound => exact (le_sel p).trans (sel_le_word q p)
  case bit15 => rw [word_bit15, Bool.not_eq_false']

/-- Settles O27: the position from the low nibble, the point from bit 15, the digit class from the seven segment bits. -/
theorem committedWordReadsBack : Obligations.CommittedWordReadsBack := by
  intro q p
  rw [readWord_eq_some (readPosition_word q p) (readCode_word q p), word_bit15, Bool.not_not, digitClass_blank]

/-- Settles O37: at LH the invariant has the whole word in ESR, and the rise of LATCH puts it on the display. -/
theorem onlyTheCommittedModuleIsPowered : Obligations.OnlyTheCommittedModuleIsPowered := by
  intro s h hr hp
  have rise : (stepTo s).latch = true := by simp [blockNext_lh hr hp]
  have shown : (stepTo s).eout = word s.q s.pos :=
    (stepTo_eout_rise (h.pins.i1 (by simp [hp])) rise).trans (h.chain.full hp).1
  refine ⟨_, step_eq s, ?_⟩
  rw [shown]
  exact ⟨onlyModulePowered_word s.q s.pos, fun b => by rw [segmentLit_word, Bool.not_eq_true']⟩

/-- Settles O24: the definition at each of the four positions. -/
theorem pointFlagsBelongToPositionsZeroToTwo : Obligations.PointFlagsBelongToPositionsZeroToTwo :=
  fun _ => ⟨rfl, rfl, rfl, rfl⟩

end Sys2Proof.Proofs
end

section
/-! SUPPORT. The six micro-operations as one update of the state each, and the whole step they make (spec/42_sequencer.md R140 to R146). -/

namespace Sys2Proof.Machine

/-- CAPTURE writes Q alone (42_sequencer.md R147). -/
theorem capture_eq (s : State) : s.capture = { s with q := if s.pos = 0#2 then s.quadIn else s.q } := by
  by_cases h : s.pos = 0#2 <;> simp [State.capture, h]

/-- What LL makes of the state (42_sequencer.md R141). -/
theorem edge_ll (s : State) : ((s.setLatch false).setBitc 15#4).capture.setPhase .cl =
    { s with latch := false, bitc := 15#4, ph := .cl, q := if s.pos = 0#2 then s.quadIn else s.q } := by
  rw [capture_eq]
  rfl

/-- What DS makes of the state: the two bytes of the word share the sixteen values of BITC (42_sequencer.md R143). -/
theorem edge_ds (s : State) : s.sendBit (word s.q s.pos) = { s with
    data := if 8 ≤ s.bitc.toNat then (enc (digit s.q s.pos) (dpf s.q s.pos)).getLsbD (s.bitc.toNat - 8)
      else (sel s.pos).getLsbD s.bitc.toNat,
    ph := .ch } :=
  sendBit_serialWord s _ _

/-- What CH makes of the state (42_sequencer.md R144). -/
theorem edge_ch (s : State) : (s.setSclk true).endBit = { s with
    sclk := true, bitc := if s.bitc = 0#4 then 0#4 else s.bitc - 1#4, ph := if s.bitc = 0#4 then .lh else .cl } := by
  by_cases hb : s.bitc = 0#4
  · rw [endBit_last (s := s.setSclk true) hb, if_pos hb, if_pos hb, ← hb]
    rfl
  · rw [endBit_next (s := s.setSclk true) hb, if_neg hb, if_neg hb]
    rfl

/-- What HD makes of the state: POS has 2 bits, and HOLDC is counted down only where it is not 0 (42_sequencer.md R146, R155). -/
theorem edge_hd (s : State) : s.holdStep = if s.holdc = 0#Config.holdW then { s with pos := s.pos + 1#2, ph := .ll }
    else { s with holdc := s.holdc - 1#Config.holdW, ph := .hd } := by
  unfold State.holdStep
  split
  next => rfl
  next h =>
    rw [countDown_eq h]
    rfl

variable {s : State}

/-- A step whose edge raises neither SCLK nor LATCH is that edge and the events of the interval (20_memory.md R64, R65). -/
theorem step_noRise {t : State} (edge : blockNext s = t) (hs : t.sclk = true → s.sclk = true) (hl : t.latch = true → s.latch = true) :
    step s = .next (advanceWorld t) := by
  rw [step_eq, stepTo, afterBlock, edge, chainReact_noRise hs hl]

/-- The chain's reaction to CH, whose edge leaves LATCH alone: the shift, if SCLK was low (20_memory.md R64). -/
theorem chainReact_ch (s : State) : chainReact s (s.setSclk true).endBit = { (s.setSclk true).endBit with
    esr := if s.sclk then s.esr else s.esr.extractLsb' 0 15 ++ BitVec.ofBool s.data } := by
  cases hs : s.sclk <;> simp [chainReact, chainShift, chainCommit, hs, shift_eq_append]

/-- The chain's reaction to LH, whose edge leaves SCLK alone: the commit, if LATCH was low (20_memory.md R65). -/
theorem chainReact_lh (s : State) : chainReact s (((s.setLatch true).setHoldc holdLoad).setPhase .hd) =
    { ((s.setLatch true).setHoldc holdLoad).setPhase .hd with eout := if s.latch then s.eout else s.esr } := by
  cases hl : s.latch <;> simp [chainReact, chainShift, chainCommit, hl]

/-- From a legal state the LH step puts WORD(Q, POS) on EOUT (42_sequencer.md R145, 20_memory.md R66). -/
theorem stepTo_lh_eout (h : Legal s) (hr : s.rst = false) (hp : s.ph = .lh) : (stepTo s).eout = word s.q s.pos :=
  (stepTo_eout_rise (h.pins.i1 (by simp [hp])) (by simp [blockNext_lh hr hp])).trans (h.chain.full hp).1

end Sys2Proof.Machine
end

section
/-! SUPPORT. Two runs with the same control registers (spec/42_sequencer.md R148). -/

namespace Sys2Proof.Machine

/-- Equal POS, PH, BITC, HOLDC and pins LATCH and SCLK: what the sequence of steps goes by. -/
structure SameControl (s t : State) : Prop where
  pos : s.pos = t.pos
  ph : s.ph = t.ph
  bitc : s.bitc = t.bitc
  holdc : s.holdc = t.holdc
  latch : s.latch = t.latch
  sclk : s.sclk = t.sclk

/-- What a micro-operation writes to the control registers it takes from them alone. -/
theorem SameControl.stepTo {s t : State} (h : SameControl s t) (hs : s.rst = false) (ht : t.rst = false) :
    SameControl (stepTo s) (stepTo t) := by
  obtain ⟨pos, ph, bitc, holdc, latch, sclk⟩ := h
  cases hp : t.ph with
  | ll => constructor <;> simp [blockNext_ll hs (ph.trans hp), blockNext_ll ht hp, pos, holdc, sclk]
  | cl => constructor <;> simp [blockNext_cl hs (ph.trans hp), blockNext_cl ht hp, pos, bitc, holdc, latch]
  | ds => constructor <;> simp [blockNext_ds hs (ph.trans hp), blockNext_ds ht hp, pos, bitc, holdc, latch, sclk]
  | ch =>
    by_cases hb : t.bitc = 0#4 <;>
      (constructor <;> simp [blockNext_ch hs (ph.trans hp), blockNext_ch ht hp, pos, bitc, holdc, latch, hb])
  | lh => constructor <;> simp [blockNext_lh hs (ph.trans hp), blockNext_lh ht hp, pos, bitc, sclk]
  | hd =>
    by_cases hc : t.holdc = 0#Config.holdW <;>
      (constructor <;> simp [blockNext_hd hs (ph.trans hp), blockNext_hd ht hp, pos, bitc, holdc, latch, sclk, hc])

theorem SameControl.stepsTo (n : Nat) : ∀ {s t : State}, SameControl s t → noResetFor n s → noResetFor n t →
    SameControl (stepsTo n s) (stepsTo n t) := by
  induction n with
  | zero => exact fun h _ _ => h
  | succ n ih => exact fun h hs ht => ih (h.stepTo hs.1 ht.1) (noResetFor_stepTo hs) (noResetFor_stepTo ht)

end Sys2Proof.Machine
end

section
/-! SUPPORT. The obligations about single steps of the sequencer, and about what they depend on (spec/42_sequencer.md R140 to R148, R153, R156). -/

namespace Sys2Proof.Proofs

open Sys2Proof Sys2Proof.Machine

/-- Settles O43: one step takes states with the same control to such states, and so do n steps. -/
theorem controlDoesNotDependOnTheInputs : Obligations.ControlDoesNotDependOnTheInputs := by
  intro n s s' hs hs' pos ph bitc holdc latch sclk
  have h := SameControl.stepsTo n ⟨pos, ph, bitc, holdc, latch, sclk⟩ hs hs'
  exact ⟨_, _, run_eq n s, run_eq n s', h.pos, h.ph, h.bitc, h.holdc, h.latch, h.sclk⟩

/-- Settles O8: a digit code and a position decode to their own rows, whose step is DS. -/
theorem dsPerformsTheRowsItAddresses : Obligations.DsPerformsTheRowsItAddresses := by
  intro s i j hi hj
  obtain rfl : i = segRow (digit s.q s.pos) := by simpa using eq_segRow_of_decode hi
  obtain rfl : j = selRow s.pos := by simpa using eq_selRow_of_decode hj
  exact ⟨(exec_segRow_digit s).symm, (exec_selRow_pos s).symm⟩

/-- Settles O35, phase by phase: every micro-operation writes one pin or none. -/
theorem onePinPerStep : Obligations.OnePinPerStep := by
  refine fun s => ⟨_, step_eq s, fun hr => ?_, fun hr => by simp [blockNext_reset hr]⟩
  cases hp : s.ph with
  | ll => simp [atMostOnePinChanges, blockNext_ll hr hp]
  | cl => simp [atMostOnePinChanges, blockNext_cl hr hp]
  | ds => simp [atMostOnePinChanges, blockNext_ds hr hp]
  | ch => simp [atMostOnePinChanges, blockNext_ch hr hp]
  | lh => simp [atMostOnePinChanges, blockNext_lh hr hp]
  | hd => simp [atMostOnePinChanges, blockNext_hd hr hp]

/-- Settles O6: the code of PH decodes to the micro-operation that is fetched, and with rst = 0 that is the edge. -/
theorem stepRunsTheDecodedMicroOperation : Obligations.StepRunsTheDecodedMicroOperation := by
  intro s i hr hi _
  obtain rfl : fetch s = i := Except.ok.inj ((decode_phaseCode s).symm.trans hi)
  exact ⟨_, exec_fetch hr, step_eq s⟩

/-- Settles O11: LL raises no line. -/
theorem latchLowDropsTheLatchAndCaptures : Obligations.LatchLowDropsTheLatchAndCaptures :=
  fun s => ⟨congrArg Host.Outcome.next (edge_ll s),
    fun hr hp => step_noRise ((blockNext_ll hr hp).trans (edge_ll s)) (by simp) (by simp)⟩

/-- Settles O12: CL raises no line; the reset step has put SCLK to 0 and PH to LL, and the LL step after it keeps SCLK. -/
theorem clockLowDropsTheShiftClock : Obligations.ClockLowDropsTheShiftClock := by
  refine fun s => ⟨rfl, fun hr hp => step_noRise (blockNext_cl hr hp) (by simp) (by simp),
    fun hr => ⟨_, step_eq s, fun released => ⟨_, step_eq _, ?_⟩⟩⟩
  have ll : (stepTo s).ph = .ll := by simp [blockNext_reset hr]
  simp [blockNext_ll released ll, blockNext_reset hr]

/-- Settles O13: DS raises no line; SCLK and LATCH are 0 by the invariants I3 and I1. -/
theorem dataSetSendsTheNextBit : Obligations.DataSetSendsTheNextBit :=
  fun s => ⟨congrArg Host.Outcome.next (edge_ds s),
    fun hr hp => step_noRise (blockNext_ds hr hp) (by simp) (by simp),
    fun h hp => ⟨h.pins.i3 (by simp [hp]), h.pins.i1 (by simp [hp])⟩⟩

/-- Settles O14: CH's edge, then the chain's reaction to it. -/
theorem clockHighShiftsAndCountsBits : Obligations.ClockHighShiftsAndCountsBits := by
  refine fun s => ⟨congrArg Host.Outcome.next (edge_ch s), fun hr hp => ?_⟩
  rw [step_eq, stepTo, afterBlock, blockNext_ch hr hp, chainReact_ch, edge_ch]

/-- Settles O15: LH's edge, then the chain's reaction to it; SCLK is 1 by the invariant I4. -/
theorem latchHighCommitsAndLoadsTheHold : Obligations.LatchHighCommitsAndLoadsTheHold := by
  refine fun s => ⟨rfl, fun hr hp => ?step, fun h hr hp => ⟨_, step_eq s, stepTo_lh_eout h hr hp, ?sclk⟩⟩
  case step =>
    rw [step_eq, stepTo, afterBlock, blockNext_lh hr hp, chainReact_lh]
    rfl
  case sclk => simpa [blockNext_lh hr hp] using (h.pins.i4 hp).1

/-- Settles O16: HD writes no pin, so it raises none. -/
theorem holdCountsDownThenAdvances : Obligations.HoldCountsDownThenAdvances := by
  refine fun s => ⟨congrArg Host.Outcome.next (edge_hd s), fun hr hp => ?step, fun h3 => by rw [h3]; rfl⟩
  case step =>
    rw [← edge_hd]
    exact step_noRise (blockNext_hd hr hp) (by simp) (by simp)

end Sys2Proof.Proofs
end

section
/-! SUPPORT. Runs and traces by counting down the steps that are left (spec/42_sequencer.md R149, R150; spec/30_encoding.md R97). -/

namespace Sys2Proof.Machine

theorem stepsTo_succ (n : Nat) (s : State) : stepsTo (n + 1) s = stepTo (stepsTo n s) := stepsTo_add n 1 s

variable {P : Nat → State → Prop}

/-- `n` counts the steps that are left, and each step without reset is one of them. -/
def CountsDown (P : Nat → State → Prop) : Prop := ∀ n s, s.rst = false → P (n + 1) s → P n (stepTo s)

theorem CountsDown.stepsTo (h : CountsDown P) {n : Nat} (m : Nat) :
    ∀ {s : State}, P (n + m) s → noResetFor m s → P n (stepsTo m s) := by
  induction m with
  | zero => exact fun hp _ => hp
  | succ m ih => exact fun hp hr => ih (h _ _ hr.1 hp) (noResetFor_stepTo hr)

theorem traceOf_succ (n : Nat) (s : State) : traceOf (n + 1) s = tokenOf s :: traceOf n (stepTo s) := by
  simp [traceOf, step_eq]

theorem traceOf_one (s : State) : traceOf 1 s = [tokenOf s] := traceOf_succ 0 s

theorem traceOf_add (m n : Nat) : ∀ s : State, traceOf (m + n) s = traceOf m s ++ traceOf n (stepsTo m s) := by
  induction m with
  | zero => intro s; simp [traceOf, Machine.stepsTo]
  | succ m ih => intro s; rw [Nat.succ_add, traceOf_succ, traceOf_succ, ih]; rfl

theorem traceOf_succ_mul (n t : Nat) (s : State) : traceOf ((n + 1) * t) s = traceOf (n * t) s ++ traceOf t (stepsTo (n * t) s) := by
  rw [Nat.succ_mul, traceOf_add]

/-- Where the steps left decide the token, the trace is the tokens of a count down to 0. -/
theorem CountsDown.traceOf (h : CountsDown P) {f : Nat → Token} (token : ∀ n s, s.rst = false → P (n + 1) s → tokenOf s = f n)
    (m : Nat) : ∀ {s : State}, P m s → noResetFor m s → traceOf m s = (List.range m).reverse.map f := by
  induction m with
  | zero => exact fun _ _ => rfl
  | succ m ih =>
    intro s hp hr
    rw [traceOf_succ, token m s hr.1 hp, ih (h m s hr.1 hp) (noResetFor_stepTo hr)]
    simp [List.range_succ]

end Sys2Proof.Machine
end

section
/-! SUPPORT. A position step by step: the transfer of its word, its hold, and the next position's LL step (spec/42_sequencer.md R149). -/

namespace Sys2Proof.Machine

/-- The quad in force in a position that begins in `s` (42_sequencer.md R147, R150). -/
def State.quadInForce (s : State) : Quad := if s.pos = 0#2 then s.quadIn else s.q

/-- The word of `q` at `p` is in transfer, `n` steps before its LH step, while EOUT shows `o`. -/
structure Transferring (p : Position) (q : Quad) (o : SerialWord) (n : Nat) (s : State) : Prop where
  sending : Sending (word q p) o s
  left : stepsLeft s = n
  pos : s.pos = p
  quad : s.q = q

/-- The word of `q` at `p` is on display and `n` HD steps are left; with none left the next position begins. -/
structure Holding (p : Position) (q : Quad) (n : Nat) (s : State) : Prop where
  quad : s.q = q
  eout : s.eout = word q p
  held : n ≠ 0 → s.ph = .hd ∧ s.pos = p ∧ s.holdc.toNat + 1 = n
  ended : n = 0 → s.ph = .ll ∧ s.pos = p + 1#2

variable {s : State} {p : Position} {q : Quad} {o : SerialWord} {n b : Nat}

theorem transferring_ll (hr : s.rst = false) (hp : s.ph = .ll) :
    Transferring s.pos s.quadInForce s.eout 48 (stepTo s) := by
  obtain ⟨sending, left⟩ := sending_ll hr hp
  exact ⟨sending, left, by simp [blockNext_ll hr hp], by rw [stepTo_q, blockNext_ll hr hp, edge_ll]; rfl⟩

theorem transferring_countsDown (p : Position) (q : Quad) (o : SerialWord) : CountsDown (Transferring p q o) := by
  intro n s hr h
  have busy : stepsLeft s ≠ 0 := by rw [h.left]; exact Nat.succ_ne_zero n
  obtain ⟨pos, quad, -, -⟩ := blockNext_inTransfer hr busy
  have left := stepsLeft_stepTo hr busy
  rw [h.left] at left
  exact ⟨sending_step h.sending hr busy, Nat.succ.inj left, by rw [stepTo_pos, pos, h.pos], by rw [stepTo_q, quad, h.quad]⟩

/-- The steps left say which micro-operation of which bit it is: three for each bit, LH at the end (42_sequencer.md R149). -/
theorem Transferring.phase (h : Transferring p q o n s) :
    s.ph = .cl ∧ n = 3 * s.bitc.toNat + 3 ∨ s.ph = .ds ∧ n = 3 * s.bitc.toNat + 2 ∨
      s.ph = .ch ∧ n = 3 * s.bitc.toNat + 1 ∨ s.ph = .lh ∧ n = 0 := by
  have left := h.left
  rcases h.sending.busy with hp | hp | hp | hp <;> simp only [stepsLeft, hp] at left <;> simp [hp, left]

theorem Transferring.cl (h : Transferring p q o (3 * b + 3) s) : s.ph = .cl ∧ s.bitc.toNat = b := by
  have := h.phase
  grind

theorem Transferring.ds (h : Transferring p q o (3 * b + 2) s) : s.ph = .ds ∧ s.bitc.toNat = b := by
  have := h.phase
  grind

theorem Transferring.ch (h : Transferring p q o (3 * b + 1) s) : s.ph = .ch ∧ s.bitc.toNat = b := by
  have := h.phase
  grind

theorem Transferring.lh (h : Transferring p q o 0 s) : s.ph = .lh := h.sending.ph_lh h.left

/-- LH commits the word and loads the hold counter, HOLD_CYCLES HD steps being left (42_sequencer.md R145). -/
theorem holding_lh (h : Transferring p q o 0 s) (hr : s.rst = false) : Holding p q Config.holdCycles (stepTo s) := by
  have edge := blockNext_lh hr h.lh
  obtain ⟨hd, eout⟩ := h.sending.commits hr h.lh
  refine ⟨by simp [edge, h.quad], eout, fun _ => ⟨hd, by simp [edge, h.pos], ?count⟩, nofun⟩
  simp [edge, Config.holdCycles]

/-- HD counts down, and hands the display over to the next position after the last count (42_sequencer.md R146). -/
theorem holding_countsDown (p : Position) (q : Quad) : CountsDown (Holding p q) := by
  intro n s hr h
  obtain ⟨hp, pos, count⟩ := h.held (Nat.succ_ne_zero n)
  have edge := blockNext_hd hr hp
  have quad : (stepTo s).q = q := by simp [edge, h.quad]
  have eout : (stepTo s).eout = word q p := (stepTo_eout_keep (by simp [edge])).trans h.eout
  have last : s.holdc = 0#Config.holdW ↔ n = 0 := by simp [BitVec.toNat_eq]; omega
  refine ⟨quad, eout, fun hn => ?held, fun hn => ?ended⟩
  case held =>
    have less : (stepTo s).holdc.toNat = s.holdc.toNat - 1 := by rw [stepTo_holdc, edge, holdStep_holdc_toNat]
    exact ⟨by simp [edge, last, hn], by simp [edge, last, hn, pos], by omega⟩
  case ended => simp [edge, last, hn, pos]

/-- `k + 1` steps after a position's LL step begins the transfer has `48 - k` steps left. -/
theorem transferring_stepsTo (hp : s.ph = .ll) {k : Nat} (hk : k ≤ 48) (hr : noResetFor (k + 1) s) :
    Transferring s.pos s.quadInForce s.eout (48 - k) (stepsTo (k + 1) s) := by
  refine (transferring_countsDown _ _ _).stepsTo k ?_ (noResetFor_stepTo hr)
  rw [Nat.sub_add_cancel hk]
  exact transferring_ll hr.1 hp

/-- `50 + j` steps after it the word is on display, and `HOLD_CYCLES - j` HD steps are left. -/
theorem holding_stepsTo (hp : s.ph = .ll) {j : Nat} (hj : j ≤ Config.holdCycles) (hr : noResetFor (50 + j) s) :
    Holding s.pos s.quadInForce (Config.holdCycles - j) (stepsTo (50 + j) s) := by
  have first : noResetFor 49 s := noResetFor_mono (by omega) hr
  have ready : Transferring s.pos s.quadInForce s.eout 0 (stepsTo 49 s) := transferring_stepsTo hp le_rfl first
  have loaded : Holding s.pos s.quadInForce Config.holdCycles (stepsTo 50 s) := by
    rw [stepsTo_succ 49]
    exact holding_lh ready (noResetFor_stepsTo (m := 49) (n := 0) first).1
  rw [stepsTo_add 50 j]
  exact (holding_countsDown _ _).stepsTo j (by rwa [Nat.sub_add_cancel hj]) (noResetFor_stepsTo hr)

/-- Until its commit a position shows what was on display before it. -/
theorem stepsTo_eout_beforeCommit (hp : s.ph = .ll) {k : Nat} (hk : k ≤ 49) (hr : noResetFor k s) : (stepsTo k s).eout = s.eout := by
  cases k with
  | zero => rfl
  | succ k => exact (transferring_stepsTo hp (by omega) hr).sending.eout

/-- T_POS steps after a position's LL step its word is on display and the next position begins. -/
theorem holding_tPos (hp : s.ph = .ll) (hr : noResetFor Config.tPos s) :
    Holding s.pos s.quadInForce 0 (stepsTo Config.tPos s) := by
  simpa [Config.tPos] using holding_stepsTo hp le_rfl hr

/-- A committed word stays on display for T_POS steps: through its hold and the transfer of the next (42_sequencer.md R154). -/
theorem stepsTo_eout_onDisplay (hp : s.ph = .ll) {j : Nat} (hj : j < Config.tPos) (hr : noResetFor (50 + j) s) :
    (stepsTo (50 + j) s).eout = word s.quadInForce s.pos := by
  rcases Nat.le_total j Config.holdCycles with h | h
  · exact (holding_stepsTo hp h hr).eout
  · obtain ⟨k, hk⟩ : ∃ k, 50 + j = Config.tPos + k := ⟨j - Config.holdCycles, by unfold Config.tPos; omega⟩
    rw [hk] at hr ⊢
    have shown := holding_tPos hp (noResetFor_mono (Nat.le_add_right _ k) hr)
    rw [stepsTo_add, ← shown.eout]
    exact stepsTo_eout_beforeCommit (shown.ended rfl).1 (by omega) (noResetFor_stepsTo hr)

end Sys2Proof.Machine
end

section
/-! SUPPORT. The tokens of a transfer and of a hold, and the trace of a position (spec/42_sequencer.md R150; spec/30_encoding.md R97). -/

namespace Sys2Proof.Machine

variable {s : State} {p : Position} {q : Quad} {o : SerialWord} {n : Nat}

/-- The tokens of a transfer, by the steps left after each: three for each bit (30_encoding.md R97). -/
def transferToken (w : SerialWord) (n : Nat) : Token :=
  if n % 3 = 2 then .cl else if n % 3 = 1 then .ds (w.getLsbD (n / 3)) else .ch

/-- Three tokens in a row are one BIT (30_encoding.md R97). -/
theorem transferToken_bit (w : SerialWord) (b : Nat) :
    [3 * b + 2, 3 * b + 1, 3 * b].map (transferToken w) = bitTokens (w.getLsbD b) := by
  have : (3 * b + 1) / 3 = b := by omega
  simp [transferToken, bitTokens, Nat.add_mod, this]

/-- SHIFT16 of a word is the tokens of its transfer, the sixteen bits from the top (30_encoding.md R97). -/
theorem shift16Tokens_eq (w : SerialWord) : shift16Tokens w = (List.range 48).reverse.map (transferToken w) := by
  have bits : (List.range 48).reverse = (List.range 16).reverse.flatMap (fun b => [3 * b + 2, 3 * b + 1, 3 * b]) := by decide
  have bytes : (List.range 16).reverse = [7, 6, 5, 4, 3, 2, 1, 0].map (8 + ·) ++ [7, 6, 5, 4, 3, 2, 1, 0] := by decide
  rw [bits, List.map_flatMap]
  simp only [transferToken_bit, bytes, List.flatMap_append, shift16Tokens, byteTokens]
  simp [List.flatMap_cons]

/-- A step of the transfer has its token: the bit that DS sends is the one the steps left point at. -/
theorem Transferring.token (hr : s.rst = false) (h : Transferring p q o (n + 1) s) :
    tokenOf s = transferToken (word q p) n := by
  obtain ⟨hp, hn⟩ | ⟨hp, hn⟩ | ⟨hp, hn⟩ | ⟨-, hn⟩ := h.phase
  · have : n % 3 = 2 := by omega
    simp [tokenOf, transferToken, hr, hp, this]
  · have : n % 3 = 1 := by omega
    have bit : n / 3 = s.bitc.toNat := by omega
    simp [tokenOf, transferToken, hr, hp, this, bit, h.sending.word]
  · have : n % 3 = 0 := by omega
    simp [tokenOf, transferToken, hr, hp, this]
  · omega

theorem Holding.token (hr : s.rst = false) (h : Holding p q (n + 1) s) : tokenOf s = .hd := by
  simp [tokenOf, hr, (h.held (Nat.succ_ne_zero n)).1]

/-- The sixteen bits of a position give SHIFT16 of its word. -/
theorem traceOf_transfer (hp : s.ph = .ll) (hr : noResetFor 49 s) :
    traceOf 48 (stepTo s) = shift16Tokens (word s.quadInForce s.pos) := by
  rw [shift16Tokens_eq]
  exact (transferring_countsDown _ _ _).traceOf (fun _ _ => Transferring.token) 48 (transferring_ll hr.1 hp) (noResetFor_stepTo hr)

theorem traceOf_hold (h : Holding p q n s) (hr : noResetFor n s) : traceOf n s = holdTokens n := by
  rw [(holding_countsDown p q).traceOf (f := fun _ => .hd) (fun _ _ => Holding.token) n h hr]
  simp [holdTokens, List.map_const']

/-- The trace of a position is POSITION of its place and its word (30_encoding.md R97). -/
theorem traceOf_tPos (hp : s.ph = .ll) (hr : noResetFor Config.tPos s) :
    traceOf Config.tPos s = positionTokens s.pos (word s.quadInForce s.pos) := by
  have length : Config.tPos = 1 + 48 + 1 + Config.holdCycles := by unfold Config.tPos; omega
  have first {n : Nat} (hn : n ≤ 50) : noResetFor n s := noResetFor_mono (by omega) hr
  have ll : traceOf 1 s = [if s.pos = 0#2 then .llStar else .ll] := by simp [traceOf_one, tokenOf, hr.1, hp]
  have transfer : traceOf 48 (stepsTo 1 s) = shift16Tokens (word s.quadInForce s.pos) := traceOf_transfer hp (first (by decide))
  have lh : traceOf 1 (stepsTo 49 s) = [.lh] := by
    have ready : (stepsTo 49 s).ph = .lh := (transferring_stepsTo hp le_rfl (first (by decide))).lh
    have rst := (noResetFor_stepsTo (m := 49) (n := 0) (first (by decide))).1
    simp [traceOf_one, tokenOf, rst, ready]
  have hold : traceOf Config.holdCycles (stepsTo 50 s) = holdTokens Config.holdCycles :=
    traceOf_hold (holding_stepsTo (j := 0) hp (Nat.zero_le _) (first le_rfl)) (noResetFor_stepsTo hr)
  rw [length, traceOf_add, traceOf_add, traceOf_add, ll, transfer, lh, hold]
  simp [positionTokens]

end Sys2Proof.Machine
end

section
/-! SUPPORT. The four positions of a frame, and the quad they have in force (spec/42_sequencer.md R147, R149, R150). -/

namespace Sys2Proof.Machine

variable {s : State} {p : Position} {q : Quad}

/-- In `s` the LL step of position `p` is due, with `q` in force. -/
structure Beginning (p : Position) (q : Quad) (s : State) : Prop where
  ph : s.ph = .ll
  pos : s.pos = p
  quad : s.quadInForce = q

/-- Within a frame the next position begins with the same quad in force: no capture comes before position 0. -/
theorem Beginning.next (h : Beginning p q s) (hp : p + 1#2 ≠ 0#2) (hr : noResetFor Config.tPos s) :
    Beginning (p + 1#2) q (stepsTo Config.tPos s) := by
  have shown := holding_tPos h.ph hr
  obtain ⟨ph, pos⟩ := shown.ended rfl
  rw [h.pos] at pos
  exact ⟨ph, pos, by rw [State.quadInForce, pos, if_neg hp, shown.quad, h.quad]⟩

/-- The positions of a frame begin T_POS steps apart, all with the quad captured in its first step (42_sequencer.md R149, R150). -/
theorem beginning_of_frame (hp : s.ph = .ll) (h0 : s.pos = 0#2) (n : Nat) (hn : n < 4) (hr : noResetFor (n * Config.tPos) s) :
    Beginning (BitVec.ofNat 2 n) s.quadIn (stepsTo (n * Config.tPos) s) := by
  induction n with
  | zero => rw [Nat.zero_mul]; exact ⟨hp, h0, if_pos h0⟩
  | succ n ih =>
    rw [Nat.succ_mul] at hr ⊢
    have begun := ih (by omega) (noResetFor_mono (Nat.le_add_right _ _) hr)
    rw [stepsTo_add, BitVec.ofNat_add]
    exact begun.next (by bv_omega) (noResetFor_stepsTo hr)

end Sys2Proof.Machine
end

section
/-! SUPPORT. The obligations about a position and a frame (spec/42_sequencer.md R149, R150, R154). -/

namespace Sys2Proof.Proofs

open Sys2Proof Sys2Proof.Machine

/-- Settles O44: the offsets count down the transfer, three steps for each bit, and then the hold. -/
theorem positionTimetable : Obligations.PositionTimetable := by
  intro s hp hr
  have transfer {k n : Nat} (hk : k + n = 49) (hn : n ≤ 48) : Transferring s.pos s.quadInForce s.eout n (stepsTo k s) := by
    obtain ⟨k, rfl⟩ := Nat.exists_eq_add_of_le' (show 1 ≤ k by omega)
    obtain rfl : 48 - k = n := by omega
    exact transferring_stepsTo hp (by omega) (noResetFor_mono (by unfold Config.tPos; omega) hr)
  refine ⟨fun i hi => ⟨⟨_, run_eq _ s, ?cl⟩, ⟨_, run_eq _ s, ?ds⟩, ⟨_, run_eq _ s, ?ch⟩⟩, ⟨_, run_eq _ s, ?lh⟩,
    fun j hj => ⟨_, run_eq _ s, ?hd⟩, _, run_eq _ s, (holding_tPos hp hr).ended rfl⟩
  case cl =>
    have h := transfer (k := 1 + 3 * i) (n := 3 * (15 - i) + 3) (by omega) (by omega)
    exact ⟨h.cl.1, h.cl.2, h.pos⟩
  case ds =>
    have h := transfer (k := 2 + 3 * i) (n := 3 * (15 - i) + 2) (by omega) (by omega)
    exact ⟨h.ds.1, h.ds.2, h.pos⟩
  case ch =>
    have h := transfer (k := 3 + 3 * i) (n := 3 * (15 - i) + 1) (by omega) (by omega)
    exact ⟨h.ch.1, h.ch.2, h.pos⟩
  case lh =>
    have h := transfer (k := 49) (n := 0) rfl (by omega)
    exact ⟨h.lh, h.pos⟩
  case hd =>
    have h := holding_stepsTo hp hj.le (noResetFor_mono (Nat.add_le_add_left hj.le 50) hr)
    obtain ⟨hd, pos, count⟩ := h.held (by omega)
    exact ⟨hd, pos, by omega⟩

/-- Settles O46: the LL step, the transfer, the LH step and the hold give their tokens. -/
theorem positionTraceIsThePseudoOperation : Obligations.PositionTraceIsThePseudoOperation :=
  fun _ hp hr => traceOf_tPos hp hr

/-- Settles O47: the traces of the four positions, each with the quad captured at the first. -/
theorem frameTraceShowsTheCapturedQuad : Obligations.FrameTraceShowsTheCapturedQuad := by
  intro s hp h0 hr
  have position (n : Nat) (hn : n < 4) : traceOf Config.tPos (stepsTo (n * Config.tPos) s) =
      positionTokens (BitVec.ofNat 2 n) (word s.quadIn (BitVec.ofNat 2 n)) := by
    have within : n * Config.tPos + Config.tPos ≤ Config.tFrame :=
      (Nat.succ_mul n Config.tPos).ge.trans (Nat.mul_le_mul_right _ hn)
    have begun := beginning_of_frame hp h0 n hn (noResetFor_mono (by omega) hr)
    rw [traceOf_tPos begun.ph (noResetFor_stepsTo (noResetFor_mono within hr)), begun.pos, begun.quad]
  rw [Config.tFrame, traceOf_succ_mul 3, traceOf_succ_mul 2, traceOf_succ_mul 1, traceOf_succ_mul 0, position 0 (by decide),
    position 1 (by decide), position 2 (by decide), position 3 (by decide), Nat.zero_mul]
  rfl

/-- Settles O48: position p of the frame begins at p * T_POS, and its commit at offset 50 stays on display for T_POS steps. -/
theorem frameCommitsTheCapturedQuad : Obligations.FrameCommitsTheCapturedQuad := by
  intro s p j hp h0 hj hr
  refine ⟨_, run_eq _ s, ?_⟩
  rw [Nat.add_assoc] at hr ⊢
  have begun := beginning_of_frame hp h0 p.toNat p.isLt (noResetFor_mono (Nat.le_add_right _ _) hr)
  have shown := stepsTo_eout_onDisplay begun.ph hj (noResetFor_stepsTo hr)
  rw [stepsTo_add, shown, begun.quad, begun.pos, BitVec.ofNat_toNat, BitVec.setWidth_eq]

end Sys2Proof.Proofs
end

section
/-! SUPPORT. The host's events in a row, its handlers, and ElapsedSeconds over a run of ticks (spec/43_host_reference.md R171 to R175, R184). -/

namespace Sys2Proof.Machine

theorem applyEvents_cons (s : State) (e : Event) (es : List Event) :
    applyEvents s (e :: es) = applyEvents (applyEvent s e) es := rfl

theorem applyEvents_append (s : State) (es fs : List Event) : applyEvents s (es ++ fs) = applyEvents (applyEvents s es) fs :=
  List.foldl_append

theorem applyEvents_concat (s : State) (es : List Event) (e : Event) :
    applyEvents s (es ++ [e]) = applyEvent (applyEvents s es) e :=
  applyEvents_append s es [e]

theorem settledSeconds_of_none {s : State} (h : s.tickSeen = none) : s.settledSeconds = s.elapsed := by
  simp [State.settledSeconds, h]

theorem settledSeconds_of_some {s : State} {n : Nat} (h : s.tickSeen = some n) : s.settledSeconds = tickValue n := by
  simp [State.settledSeconds, h]

/-- With no tick handler begun a tick is the increment alone (43_host_reference.md R171). -/
theorem applyEvent_tick {s : State} (h : s.tickSeen = none) : applyEvent s .tick = { s with elapsed := tickValue s.elapsed } := by
  simp [applyEvent, h]

/-- Ticks that nothing interrupts count modulo 6000 (43_host_reference.md R171). -/
theorem applyEvents_ticks (k : Nat) : ∀ {s : State}, s.tickSeen = none → s.elapsed < 6000 →
    (applyEvents s (List.replicate k .tick)).elapsed = (s.elapsed + k) % 6000 := by
  induction k with
  | zero => exact fun _ h => (Nat.mod_eq_of_lt h).symm
  | succ k ih =>
    intro s hs _
    have next : (applyEvent s .tick).elapsed = (s.elapsed + 1) % 6000 := by rw [applyEvent_tick hs]; rfl
    have rest := ih (s := applyEvent s .tick) rfl (tickValue_lt _)
    rw [List.replicate_succ, applyEvents_cons, rest, next]
    omega

/-- The events of the handlers, which can preempt the main loop (43_host_reference.md R184). -/
def IsHandler (e : Event) : Prop :=
  e = .tickRead ∨ e = .tick ∨ e = .resetButton ∨ e = .modeEnter ∨ e = .modeExit

theorem applyEvent_handler_pass (s : State) {e : Event} (h : IsHandler e) : (applyEvent s e).pass = s.pass := by
  rcases h with rfl | rfl | rfl | rfl | rfl <;> rfl

/-- A pass that handlers preempt keeps what it has read (43_host_reference.md R184). -/
theorem applyEvents_handlers_pass (es : List Event) :
    ∀ s : State, (∀ e ∈ es, IsHandler e) → (applyEvents s es).pass = s.pass := by
  induction es with
  | nil => exact fun _ _ => rfl
  | cons e es ih =>
    intro s h
    obtain ⟨he, hes⟩ := List.forall_mem_cons.mp h
    exact (ih _ hes).trans (applyEvent_handler_pass s he)

end Sys2Proof.Machine
end

section
/-! SUPPORT. The formatter's digits and points (spec/43_host_reference.md R176 to R181). -/

namespace Sys2Proof.Machine

theorem formatQuad_eq_ite (m : DisplayMode) (total : Nat) (v : Volts) :
    formatQuad m total v = if m = .voltage then formatVoltage (centivolts v) else formatTime total := by
  cases m <;> rfl

/-- Rounding gives the quotient where the remainder is at most one half of the divisor, and one more where it is at least that: at one
half it may do either (43_host_reference.md R176, D19). -/
theorem roundCentivolts_cases (v : Volts) : ∃ k r, (v.denPred + 1) * k + r = 100 * v.num ∧ r < v.denPred + 1 ∧
    ((roundCentivolts v = k ∧ 2 * r ≤ v.denPred + 1) ∨ (roundCentivolts v = k + 1 ∧ v.denPred + 1 ≤ 2 * r)) := by
  refine ⟨_, _, Nat.div_add_mod _ _, Nat.mod_lt _ (Nat.succ_pos _), ?_⟩
  unfold roundCentivolts
  dsimp only
  split
  next below => exact .inl ⟨rfl, below.le⟩
  next notBelow =>
    split
    next tie =>
      split
      · exact .inr ⟨rfl, tie.ge⟩
      · exact .inl ⟨rfl, tie.le⟩
    next => exact .inr ⟨rfl, not_lt.mp notBelow⟩

theorem centivolts_le (v : Volts) : centivolts v ≤ 330 := min_le_right _ _

theorem formatVoltage_digits {val : Nat} (h : val ≤ 330) :
    (formatVoltage val).d0.toNat = val / 100 ∧ (formatVoltage val).d1.toNat = val % 100 / 10 ∧
    (formatVoltage val).d2.toNat = val % 10 := by
  simp only [formatVoltage, BitVec.toNat_ofNat]
  omega

theorem formatTime_digits {total : Nat} (h : total < 6000) :
    (formatTime total).d0.toNat = total / 600 ∧ (formatTime total).d1.toNat = total / 60 % 10 ∧
    (formatTime total).d2.toNat = total % 60 / 10 ∧ (formatTime total).d3.toNat = total % 60 % 10 := by
  simp only [formatTime, BitVec.toNat_ofNat]
  omega

/-- The digit of the clock at each position (43_host_reference.md R177). -/
theorem digit_formatTime {total : Nat} (h : total < 6000) (p : Position) : (digit (formatTime total) p).toNat =
    if p = 0#2 then total / 600 else if p = 1#2 then total / 60 % 10 else if p = 2#2 then total % 60 / 10 else total % 60 % 10 := by
  obtain ⟨h0, h1, h2, h3⟩ := formatTime_digits h
  rcases position_cases p with rfl | rfl | rfl | rfl
  · exact h0
  · exact h1
  · exact h2
  · exact h3

theorem digit_formatTime_lt {total : Nat} (h : total < 6000) (p : Position) : (digit (formatTime total) p).toNat < 10 := by
  rw [digit_formatTime h]
  split_ifs <;> omega

theorem digit_formatVoltage {val : Nat} (h : val ≤ 330) (p : Position) :
    (digit (formatVoltage val) p).toNat < 10 ∨ (p = 3#2 ∧ digit (formatVoltage val) p = 15) := by
  obtain ⟨h0, h1, h2⟩ := formatVoltage_digits h
  rcases position_cases p with rfl | rfl | rfl | rfl
  · exact .inl (h0.trans_lt (by omega))
  · exact .inl (h1.trans_lt (by omega))
  · exact .inl (h2.trans_lt (by omega))
  · exact .inr ⟨rfl, rfl⟩

/-- The clock's point is on position 2 only (43_host_reference.md R179). -/
theorem dpf_formatTime (total : Nat) (p : Position) : dpf (formatTime total) p = decide (p = 2#2) := by
  rw [dpf_congr (q := formatTime total) (r := formatTime 0) rfl]
  clear total
  revert p
  decide

theorem digitClass_of_lt {c : DigitCode} (h : c.toNat < 10) : digitClass c = some c.toNat := if_pos h

end Sys2Proof.Machine
end

section
/-! SUPPORT. The points of a formatter pass, and its waiting for a tick handler that has begun (spec/43_host_reference.md R178, R182, R184). -/

namespace Sys2Proof.Machine

variable {s : State}

/-- A pass that has read nothing formats what it finds. -/
theorem passQuad_of_unread (h : s.pass = .idle ∨ s.pass = .done) (v : Volts) :
    s.passQuad v = formatQuad s.mode s.elapsed v := by
  rcases h with h | h <;> simp [State.passQuad, State.passMode, h]

/-- An uninterrupted pass: the cells as a tick handler that has begun leaves them are formatted onto the bus. -/
theorem applyEvent_present (h : s.pass = .idle ∨ s.pass = .done) (v : Volts) : applyEvent s (.present v) = { s with
    quadIn := formatQuad s.mode s.settledSeconds v, pass := .done, elapsed := s.settledSeconds, tickSeen := none } := by
  simp only [applyEvent, State.presentQuad]
  rw [passQuad_of_unread (s := s.endTick) h]
  rfl

/-- A pass that has read the mode formats in it, whatever DisplayMode has become (43_host_reference.md R178, R184). -/
theorem applyEvent_valueRead_pass {m : DisplayMode} (h : s.pass = .mode m) (v : Volts) :
    (applyEvent s (.valueRead v)).pass = .quad (formatQuad m s.settledSeconds v) := by
  have mode : s.endTick.passMode = m := by simp [State.passMode, State.endTick, h]
  rw [← mode]
  rfl

/-- A pass that has computed its digits puts them on the bus, whatever the cells have become (43_host_reference.md R184). -/
theorem applyEvent_present_quadIn {q : Quad} (h : s.pass = .quad q) (v : Volts) : (applyEvent s (.present v)).quadIn = q := by
  simp [applyEvent, State.presentQuad, State.passQuad, State.endTick, h]

/-- A pass that handlers preempt in both its gaps formats in the mode it read and from the second value it read (43_host_reference.md
R184). -/
theorem applyEvents_preemptedPass_quadIn (s : State) (v w : Volts) {es fs : List Event} (hes : ∀ e ∈ es, IsHandler e)
    (hfs : ∀ e ∈ fs, IsHandler e) : (applyEvents s (.modeRead :: (es ++ .valueRead v :: (fs ++ [.present w])))).quadIn =
      formatQuad s.mode (applyEvents s (.modeRead :: es)).settledSeconds v := by
  have mode : (applyEvents s (.modeRead :: es)).pass = .mode s.mode := applyEvents_handlers_pass es _ hes
  have digits := (applyEvents_handlers_pass fs _ hfs).trans (applyEvent_valueRead_pass mode v)
  rw [← List.cons_append, applyEvents_append, applyEvents_cons, applyEvents_concat]
  exact applyEvent_present_quadIn digits w

/-- A pass that is not done is ended by its write to the bus (43_host_reference.md R182). -/
theorem finishPass_of_not_done (h : s.pass ≠ .done) :
    s.finishPass = { applyEvent s (.present (liveSample s.samples)) with samples := s.samples + 1 } := by
  unfold State.finishPass
  split
  next hd => exact absurd hd h
  next => rfl

theorem finishPass_pass (s : State) : s.finishPass.pass = .done := by
  unfold State.finishPass
  split
  next hd => exact hd
  next => rfl

/-- Once the tick handler that has begun has written, it has ended (43_host_reference.md R175). -/
theorem endTick_applyEvent_tick {n : Nat} (h : s.tickSeen = some n) : (applyEvent s .tick).endTick = s.endTick :=
  (endTick_of_none rfl).trans (endTick_of_some h).symm

/-- What the main loop does while a tick handler has begun, it does after that handler's write (43_host_reference.md R184). -/
theorem applyEvent_waits_for_tick {n : Nat} (h : s.tickSeen = some n) {e : Event}
    (he : e = .modeRead ∨ (∃ v, e = .valueRead v) ∨ (∃ v, e = .present v) ∨ e = .loopStart) :
    applyEvent s e = applyEvent (applyEvent s .tick) e ∧ (applyEvent s e).tickSeen = none := by
  have ended := endTick_applyEvent_tick h
  obtain rfl | ⟨v, rfl⟩ | ⟨v, rfl⟩ | rfl := he
  · exact ⟨congrArg State.readMode ended.symm, rfl⟩
  · exact ⟨congrArg (State.readValue · v) ended.symm, rfl⟩
  · exact ⟨congrArg (State.presentQuad · v) ended.symm, rfl⟩
  · exact ⟨congrArg (fun t : State => { t with loop := true, pass := .idle }) ended.symm, rfl⟩

end Sys2Proof.Machine
end

section
/-! SUPPORT. The quad of the main loop's pass, however the events of the interval preempt it (spec/43_host_reference.md R178, R182 to R184). -/

namespace Sys2Proof.Machine

/-- Equal host cells: what the handlers go by (43_host_reference.md R170, R175). -/
structure SameCells (s t : State) : Prop where
  mode : s.mode = t.mode
  elapsed : s.elapsed = t.elapsed
  tickSeen : s.tickSeen = t.tickSeen

theorem SameCells.settledSeconds {s t : State} (h : SameCells s t) : s.settledSeconds = t.settledSeconds := by
  simp only [State.settledSeconds, h.elapsed, h.tickSeen]

/-- What an event writes to the cells it takes from them alone. -/
theorem SameCells.applyEvent {s t : State} (h : SameCells s t) (e : Event) : SameCells (applyEvent s e) (applyEvent t e) := by
  obtain ⟨mode, elapsed, seen⟩ := h
  have settled := SameCells.settledSeconds ⟨mode, elapsed, seen⟩
  cases e with
  | drive | setRst => exact ⟨mode, elapsed, seen⟩
  | tickRead => exact ⟨mode, settled, congrArg some settled⟩
  | tick => exact ⟨mode, by simp only [Machine.applyEvent, elapsed, seen], rfl⟩
  | resetButton => exact ⟨mode, rfl, seen⟩
  | modeEnter | modeExit => exact ⟨rfl, elapsed, seen⟩
  | modeRead | valueRead | present | loopStart => exact ⟨mode, settled, rfl⟩

/-- `q` is what one formatter pass makes of the cells it finds in the course of the events `es` from `s`: DisplayMode after some of
them, ElapsedSeconds after the same or more of them, as the tick handler then running leaves it (43_host_reference.md R184). -/
def PassOf (s : State) (es : List Event) (q : Quad) : Prop :=
  ∃ (fs gs : List Event) (v : Volts), fs <+: gs ∧ gs <+: es ∧
    q = formatQuad (applyEvents s fs).mode (applyEvents s gs).settledSeconds v

theorem PassOf.mono {s : State} {es fs : List Event} {q : Quad} (h : PassOf s es q) (hf : es <+: fs) : PassOf s fs q := by
  obtain ⟨gs, hs, v, hgs, hhs, hq⟩ := h
  exact ⟨gs, hs, v, hgs, hhs.trans hf, hq⟩

/-- The prefixes of a list are its first so many elements. -/
theorem PassOf.take {s : State} {es : List Event} {q : Quad} (h : PassOf s es q) : ∃ (i j : Nat) (v : Volts), i ≤ j ∧ j ≤ es.length ∧
    q = formatQuad (applyEvents s (es.take i)).mode (applyEvents s (es.take j)).settledSeconds v := by
  obtain ⟨fs, gs, v, hfs, hgs, hq⟩ := h
  refine ⟨fs.length, gs.length, v, hfs.length_le, hgs.length_le, ?_⟩
  rw [← List.prefix_iff_eq_take.mp (hfs.trans hgs), ← List.prefix_iff_eq_take.mp hgs]
  exact hq

/-- After the events `es` from a state with the cells of `s`, in which no pass had begun, the state is `b`: what the pass holds, or has
put on the bus, it made of the cells it found in their course. -/
structure PassTracks (s : State) (es : List Event) (b : State) : Prop where
  cells : SameCells (applyEvents s es) b
  mode : ∀ m, b.pass = .mode m → ∃ fs, fs <+: es ∧ m = (applyEvents s fs).mode
  quad : ∀ q, b.pass = .quad q → PassOf s es q
  done : b.pass = .done → PassOf s es b.quadIn

namespace PassTracks

variable {s b : State} {es : List Event}

/-- The mode of the pass is one that it has found, or finds now. -/
theorem passMode (h : PassTracks s es b) : ∃ fs, fs <+: es ∧ b.passMode = (applyEvents s fs).mode := by
  unfold State.passMode
  split
  next m hm => exact h.mode m hm
  next => exact ⟨es, List.prefix_rfl, h.cells.mode.symm⟩

/-- The digits that the pass would compute now. -/
theorem formatted (h : PassTracks s es b) (v : Volts) : PassOf s es (formatQuad b.passMode b.settledSeconds v) := by
  obtain ⟨fs, hfs, hm⟩ := h.passMode
  exact ⟨fs, es, v, hfs, List.prefix_rfl, by rw [hm, h.cells.settledSeconds]⟩

/-- The quad that the pass would put on the bus now. -/
theorem passQuad (h : PassTracks s es b) (v : Volts) : PassOf s es (b.endTick.passQuad v) := by
  unfold State.passQuad
  split
  next q hq => exact h.quad q hq
  next => exact h.formatted v

/-- Only another host's drive of the lines makes the bus hold something that is not of the pass. -/
theorem applyEvent (h : PassTracks s es b) {e : Event} (he : ∀ q, e ≠ .drive q) :
    PassTracks s (es ++ [e]) (applyEvent b e) := by
  have more : es <+: es ++ [e] := List.prefix_append es [e]
  have cells : SameCells (applyEvents s (es ++ [e])) (Machine.applyEvent b e) := by
    rw [applyEvents_concat]
    exact h.cells.applyEvent e
  cases e with
  | drive q => exact absurd rfl (he q)
  | setRst | tickRead | tick | resetButton | modeEnter | modeExit =>
    refine ⟨cells, fun m hm => ?_, fun q hq => (h.quad q hq).mono more, fun hd => (h.done hd).mono more⟩
    obtain ⟨fs, hfs, hm⟩ := h.mode m hm
    exact ⟨fs, hfs.trans more, hm⟩
  | modeRead =>
    exact ⟨cells, fun m hm => ⟨es, more, (Pass.mode.inj hm).symm.trans h.cells.mode.symm⟩, nofun, nofun⟩
  | valueRead v => exact ⟨cells, nofun, fun q hq => Pass.quad.inj hq ▸ (h.formatted v).mono more, nofun⟩
  | present v => exact ⟨cells, nofun, nofun, fun _ => (h.passQuad v).mono more⟩
  | loopStart => exact ⟨cells, nofun, nofun, nofun⟩

/-- The pass begins before the events of the interval, and they preempt it where they may. -/
theorem applyEvents (h : SameCells s b) (idle : b.pass = .idle) (es : List Event) :
    (∀ q, Event.drive q ∉ es) → PassTracks s es (applyEvents b es) := by
  induction es using List.reverseRecOn with
  | nil =>
    intro _
    refine ⟨h, ?_, ?_, ?_⟩ <;> simp [Machine.applyEvents, idle]
  | append_singleton es e ih =>
    intro hn
    rw [applyEvents_concat]
    exact (ih fun q hq => hn q (List.mem_append_left _ hq)).applyEvent fun q hq => hn q (by simp [hq])

/-- The pass that has ended has put its quad on the bus. -/
theorem finishPass (h : PassTracks s es b) : PassOf s es b.finishPass.quadIn := by
  by_cases hd : b.pass = .done
  · have ended : b.finishPass = b := by simp [State.finishPass, hd]
    rw [ended]
    exact h.done hd
  · rw [finishPass_quadIn b hd]
    exact h.passQuad _

end PassTracks

end Sys2Proof.Machine
end

section
/-! SUPPORT. The main loop over a step and over a run (spec/43_host_reference.md R182). -/

namespace Sys2Proof.Machine

/-- No edge touches the host's cells, its main loop or the schedule (00_scope.md R8; 43_host_reference.md R172). -/
theorem blockNext_host (s : State) :
    (blockNext s).loop = s.loop ∧ (blockNext s).schedule = s.schedule ∧ SameCells s (blockNext s) := by
  cases hr : s.rst with
  | true => rw [blockNext_reset hr]; exact ⟨rfl, rfl, rfl, rfl, rfl⟩
  | false =>
    have k := exec_sameEnvironment (exec_fetch hr)
    exact ⟨k.loop, k.schedule, k.mode.symm, k.elapsed.symm, k.tickSeen.symm⟩

/-- Nothing stops the main loop (43_host_reference.md R182). -/
theorem applyEvents_loop (es : List Event) : ∀ {s : State}, s.loop = true → (applyEvents s es).loop = true := by
  induction es with
  | nil => exact id
  | cons e es ih =>
    intro s h
    refine ih ?_
    cases e with
    | loopStart => rfl
    | _ => exact h

theorem finishPass_loop (s : State) : s.finishPass.loop = s.loop := by
  unfold State.finishPass
  split <;> rfl

theorem advanceWorld_loop {s : State} (h : s.loop = true) : (advanceWorld s).loop = true := by
  have begun : (State.loopPart { s with schedule := s.schedule.tail } State.beginPass).loop = true :=
    loopPart_cases (P := fun t => t.loop = true) h h
  have acted := applyEvents_loop (s.schedule.headD []) begun
  exact loopPart_cases (P := fun t => t.loop = true) ((finishPass_loop _).trans acted) acted

/-- Before a capture the main loop's pass begins before the events of the interval and has ended after them (43_host_reference.md
R182; log 2). -/
theorem advanceWorld_atFrame {s : State} (hl : s.loop = true) (hp : s.ph = .ll) (h0 : s.pos = 0#2) : advanceWorld s =
    (applyEvents { s with schedule := s.schedule.tail, pass := .idle } (s.schedule.headD [])).finishPass := by
  have k := applyEvents_sameBlock (s.schedule.headD []) { s with schedule := s.schedule.tail, pass := .idle }
  unfold advanceWorld
  rw [loopPart_pos (f := State.beginPass) (by exact hl) (by exact hp) (by exact h0)]
  exact loopPart_pos (applyEvents_loop _ hl) (k.ph.trans hp) (k.pos.trans h0)

theorem stepTo_loop {s : State} (h : s.loop = true) : (stepTo s).loop = true :=
  advanceWorld_loop ((blockNext_host s).1.trans h)

/-- The interval before a capture, begun with the cells of `s`, leaves on the bus what one pass of the main loop made of them. -/
theorem advanceWorld_passOf {s a : State} (cells : SameCells s a) (hl : a.loop = true) (hp : a.ph = .ll) (h0 : a.pos = 0#2)
    (hn : ∀ q, Event.drive q ∉ a.schedule.headD []) :
    (advanceWorld a).pass = .done ∧ PassOf s (a.schedule.headD []) (advanceWorld a).quadIn := by
  have begun : SameCells s { a with schedule := a.schedule.tail, pass := .idle } := ⟨cells.mode, cells.elapsed, cells.tickSeen⟩
  rw [advanceWorld_atFrame hl hp h0]
  exact ⟨finishPass_pass _, (PassTracks.applyEvents begun rfl _ hn).finishPass⟩

/-- The capture that follows a step takes what one pass of the main loop made of the cells since that step. -/
theorem stepTo_passOf {s : State} (hl : s.loop = true) (hn : ∀ q, Event.drive q ∉ s.schedule.headD []) (hp : (stepTo s).ph = .ll)
    (h0 : (stepTo s).pos = 0#2) : (stepTo s).pass = .done ∧ PassOf s (s.schedule.headD []) (stepTo s).quadIn := by
  obtain ⟨loop, schedule, cells⟩ := blockNext_host s
  rw [stepTo_ph] at hp
  rw [stepTo_pos] at h0
  rw [← schedule] at hn ⊢
  exact advanceWorld_passOf (a := chainReact s (blockNext s)) ⟨cells.mode, cells.elapsed, cells.tickSeen⟩ (loop.trans hl) hp h0 hn

theorem stepsTo_loop (n : Nat) : ∀ {s : State}, s.loop = true → (stepsTo n s).loop = true := by
  induction n with
  | zero => exact id
  | succ n ih => exact fun h => ih (stepTo_loop h)

theorem stepsTo_schedule (n : Nat) : ∀ s : State, (stepsTo n s).schedule = s.schedule.drop n := by
  induction n with
  | zero => exact fun _ => rfl
  | succ n ih =>
    intro s
    rw [stepsTo, ih, stepTo_schedule, List.drop_tail]

/-- What no interval of a run does, the next one does not (log 7). -/
theorem not_mem_headD_stepsTo {s : State} {e : Event} (h : ∀ es ∈ s.schedule, e ∉ es) (n : Nat) :
    e ∉ (stepsTo n s).schedule.headD [] := by
  rw [stepsTo_schedule]
  cases hd : s.schedule.drop n with
  | nil => simp
  | cons es rest => exact h es (List.mem_of_mem_drop (hd ▸ List.mem_cons_self))

/-- T_FRAME steps after a frame's first step the next frame's first step is due (42_sequencer.md R149). -/
theorem stepsTo_tFrame {s : State} (hp : s.ph = .ll) (h0 : s.pos = 0#2) (hr : noResetFor Config.tFrame s) :
    (stepsTo Config.tFrame s).ph = .ll ∧ (stepsTo Config.tFrame s).pos = 0#2 := by
  rw [show Config.tFrame = 3 * Config.tPos + Config.tPos from Nat.succ_mul 3 _] at hr ⊢
  have begun := beginning_of_frame hp h0 3 (by decide) (noResetFor_mono (Nat.le_add_right _ _) hr)
  have ended := (holding_tPos begun.ph (noResetFor_stepsTo hr)).ended rfl
  rw [stepsTo_add]
  exact ⟨ended.1, by rw [ended.2, begun.pos]; rfl⟩

end Sys2Proof.Machine
end

section
/-! SUPPORT. The obligations about the host (spec/43_host_reference.md). -/

namespace Sys2Proof.Proofs

open Sys2Proof Sys2Proof.Machine

/-- Settles O49: the frame commits the words of the clock's quad, and a word reads back as its position, point and digit. -/
theorem frameDisplaysTheHostsClock : Obligations.FrameDisplaysTheHostsClock := by
  intro s total p hp h0 ht hq hr
  obtain ⟨t, run, shown⟩ := frameCommitsTheCapturedQuad s p 0 hp h0 (Nat.add_pos_left (by decide) _) hr
  refine ⟨t, run, ?_⟩
  rw [shown, hq, committedWordReadsBack, dpf_formatTime, digitClass_of_lt (digit_formatTime_lt ht p), digit_formatTime ht]

/-- Settles O52: the pass begins before the interval's events, and what it holds after each of them it made of the cells it found. -/
theorem mainLoopPassPrecedesEveryCapture : Obligations.MainLoopPassPrecedesEveryCapture := by
  refine fun s hl hn => ⟨_, step_eq s, stepTo_loop hl, fun hp h0 => ?_⟩
  obtain ⟨done, pass⟩ := stepTo_passOf hl hn hp h0
  exact ⟨done, pass.take⟩

/-- Settles O53: the next frame captures what the pass after the last step of this frame made, and commits its words. -/
theorem cellChangesShowInTheNextFrame : Obligations.CellChangesShowInTheNextFrame := by
  intro s p hl hp h0 hr hn
  have last : stepTo (stepsTo (Config.tFrame - 1) s) = stepsTo Config.tFrame s := (stepsTo_succ (Config.tFrame - 1) s).symm
  obtain ⟨ph, pos⟩ := stepsTo_tFrame hp h0 (noResetFor_mono (Nat.le_add_right _ _) hr)
  obtain ⟨t, run, shown⟩ :=
    frameCommitsTheCapturedQuad _ p 0 ph pos (Nat.add_pos_left (by decide) _) (noResetFor_stepsTo hr)
  obtain ⟨-, pass⟩ := stepTo_passOf (stepsTo_loop (Config.tFrame - 1) hl)
    (fun q => not_mem_headD_stepsTo (fun es hes => hn es hes q) _) (by rwa [last]) (by rwa [last])
  obtain ⟨i, j, v, hij, hj, quad⟩ := pass.take
  refine ⟨_, t, run_eq _ s, ?run, i, j, v, hij, hj, ?shown⟩
  case run => rw [← run, run_eq, run_eq, stepsTo_add, Nat.add_zero]
  case shown => rw [shown, ← last, quad]

/-- Settles O54: one tick, and an induction on the number of ticks. -/
theorem ticksCountModuloSixThousand : Obligations.TicksCountModuloSixThousand :=
  ⟨fun _ => applyEvent_tick, fun _ k => applyEvents_ticks k⟩

/-- Settles O57: the value is the quotient or one more, as the remainder is at most or at least one half of the divisor. -/
theorem roundingStaysWithinOneHalf : Obligations.RoundingStaysWithinOneHalf := by
  intro v
  obtain ⟨k, r, division, remainder, ⟨value, half⟩ | ⟨value, half⟩⟩ := roundCentivolts_cases v
  · rw [value, ← division]; constructor <;> linarith
  · rw [value, ← division]; constructor <;> linarith

/-- Settles O58: the digits are those of the value in its two notations. -/
theorem formatterDigitsGiveTheValueBack : Obligations.FormatterDigitsGiveTheValueBack := by
  refine ⟨fun val h => ⟨?voltage, rfl, rfl⟩, fun _ => rfl, fun total h => ⟨?time, rfl⟩⟩
  case voltage =>
    obtain ⟨h0, h1, h2⟩ := formatVoltage_digits h
    omega
  case time =>
    obtain ⟨h0, h1, h2, h3⟩ := formatTime_digits h
    omega

/-- Settles O59, mode by mode. -/
theorem formatterNeverGivesAnUndefinedDigit : Obligations.FormatterNeverGivesAnUndefinedDigit := by
  intro m total v ht p
  cases m with
  | time => exact .inl (Nat.le_of_lt_succ (digit_formatTime_lt ht p))
  | voltage => exact (digit_formatVoltage (centivolts_le v) p).imp Nat.le_of_lt_succ fun ⟨h3, blank⟩ => ⟨h3, rfl, blank⟩

/-- Settles O60: the whole pass, the pass that handlers preempt, the main loop's pass, and the waiting for a tick handler. -/
theorem formatterPassDrivesTheBus : Obligations.FormatterPassDrivesTheBus := by
  refine ⟨fun s v h => ?whole, fun s v w es fs h => ?preempted, fun s h => ⟨_, liveSample_wellFormed s.samples, ?loop⟩,
    fun s n h => ⟨fun e => applyEvent_waits_for_tick h, fun hd => ?waits⟩⟩
  case whole => rw [applyEvent_present h, formatQuad_eq_ite]
  case preempted =>
    obtain ⟨hes, hfs⟩ := List.forall_mem_append.mp h
    rw [applyEvents_preemptedPass_quadIn s v w hes hfs, formatQuad_eq_ite]
  case loop => rw [finishPass_of_not_done (by simp [h]), applyEvent_present (.inl h)]
  case waits =>
    obtain ⟨waits, ended⟩ := applyEvent_waits_for_tick h (.inr (.inr (.inl ⟨liveSample s.samples, rfl⟩)))
    rw [finishPass_of_not_done hd, finishPass_of_not_done (s := applyEvent s .tick) hd, waits]
    exact ⟨rfl, ended⟩

/-- Settles O55: a handler's write is the last thing that happened to its cell. -/
theorem buttonHandlersWriteTheirCells : Obligations.ButtonHandlersWriteTheirCells :=
  ⟨fun s es => ⟨by rw [applyEvents_concat]; rfl, by rw [applyEvents_concat]; rfl⟩, fun _ => ⟨rfl, rfl, rfl, rfl⟩⟩

/-- Settles O56: the tick's write comes from what the tick handler read, which no reset edge changes. -/
theorem resetInsideATickIsLost : Obligations.ResetInsideATickIsLost := by
  refine fun s => ⟨rfl, settledSeconds_of_none, fun _ => settledSeconds_of_some, fun v h => ?shown, rfl, fun h => ?before⟩
  case shown =>
    have shown := applyEvents_preemptedPass_quadIn (applyEvents s [.tickRead, .resetButton]) v v (es := []) (fs := []) nofun nofun
    have mode : (applyEvents s [.tickRead, .resetButton]).mode = .time := h
    have seconds : (applyEvents (applyEvents s [.tickRead, .resetButton]) [.modeRead]).settledSeconds =
        (s.settledSeconds + 1) % 6000 := rfl
    rw [mode, seconds, ← applyEvents_append] at shown
    exact shown
  case before => exact congrArg State.elapsed (applyEvent_tick (s := applyEvent s .resetButton) h)

end Sys2Proof.Proofs
end

section
/-! SUPPORT. The obligation about exceptions: there are none (spec/60_exceptions.md R200). -/

namespace Sys2Proof.Proofs

open Sys2Proof Sys2Proof.Machine

/-- Settles O7: a step answers `stepTo`, every row answers by its own meaning, and `Fault` has no constructor. -/
theorem everyStepAndEveryRowAnswers : Obligations.EveryStepAndEveryRowAnswers :=
  ⟨fun s => ⟨stepTo s, step_eq s⟩, exec_next, fun ⟨cause, _⟩ => nomatch cause⟩

end Sys2Proof.Proofs
end

section
/-! SUPPORT. What the reset step leaves in the block and in the display chain (spec/70_reset_and_hazards.md R230 to R232). -/

namespace Sys2Proof.Machine

variable {s : State}

/-- The next step of `s` is the LL step of position 0 with every register of the block but Q at its reset value
(70_reset_and_hazards.md R230). -/
structure ResetValues (s : State) : Prop where
  pos : s.pos = 0#2
  ph : s.ph = .ll
  bitc : s.bitc = 0#4
  holdc : s.holdc = 0#Config.holdW
  latch : s.latch = false
  sclk : s.sclk = false
  data : s.data = false

/-- A step with rst = 1 resets the block, whatever micro-operation PH named (70_reset_and_hazards.md R230, R231). -/
theorem resetValues_stepTo (hr : s.rst = true) : ResetValues (stepTo s) := by
  constructor <;> simp [blockNext_reset hr]

/-- A reset step moves no pin upward, so nothing is shifted and nothing is committed (70_reset_and_hazards.md R232). -/
theorem stepTo_reset_chain (hr : s.rst = true) : (stepTo s).esr = s.esr ∧ (stepTo s).eout = s.eout :=
  ⟨stepTo_esr_keep (by simp [blockNext_reset hr]), stepTo_eout_keep (by simp [blockNext_reset hr])⟩

/-- The LL step of position 0 captures QUAD_IN and begins the word at bit 15 (42_sequencer.md R141, R147). -/
theorem captureStep (hr : s.rst = false) (hp : s.ph = .ll) (h0 : s.pos = 0#2) :
    (stepTo s).q = s.quadIn ∧ (stepTo s).ph = .cl ∧ (stepTo s).pos = 0#2 ∧ (stepTo s).bitc = 15#4 := by
  simp [blockNext_ll hr hp, h0]

end Sys2Proof.Machine
end

section
/-! SUPPORT. The interval between two steps while the main loop does not run (logs 2 and 7). -/

namespace Sys2Proof.Machine

variable {s : State}

/-- A main loop that does not run has no part in an interval. -/
theorem loopPart_notRunning {f : State → State} (h : s.loop = false) : s.loopPart f = s := by
  simp [State.loopPart, h]

/-- Only `loopStart` starts the main loop (43_host_reference.md R182). -/
theorem applyEvents_notRunning (es : List Event) :
    ∀ {s : State}, s.loop = false → Event.loopStart ∉ es → (applyEvents s es).loop = false := by
  induction es with
  | nil => exact fun h _ => h
  | cons e es ih =>
    intro s h hn
    refine ih ?_ (List.not_mem_of_not_mem_cons hn)
    cases e with
    | loopStart => exact absurd List.mem_cons_self hn
    | _ => exact h

/-- An interval in which the main loop does not run is its events and nothing else. -/
theorem advanceWorld_notRunning (h : s.loop = false) (hn : Event.loopStart ∉ s.schedule.headD []) :
    advanceWorld s = applyEvents { s with schedule := s.schedule.tail } (s.schedule.headD []) := by
  unfold advanceWorld
  rw [loopPart_notRunning (f := State.beginPass) (by exact h)]
  exact loopPart_notRunning (applyEvents_notRunning _ h hn)

end Sys2Proof.Machine
end

section
/-! SUPPORT. The obligations about reset and about the schedule (spec/70_reset_and_hazards.md; logs 2 and 7). -/

namespace Sys2Proof.Proofs

open Sys2Proof Sys2Proof.Machine

/-- Settles O28: the spec's values are the ones `State.reset` is written with. -/
theorem resetStateHoldsTheSpecsValues : Obligations.ResetStateHoldsTheSpecsValues :=
  ⟨rfl, rfl, rfl, rfl, rfl, rfl, rfl, rfl, rfl⟩

/-- Settles O30: the reset step raises no line. -/
theorem resetStepTouchesOnlyTheBlock : Obligations.ResetStepTouchesOnlyTheBlock :=
  fun s hr => ⟨Config.resetQuad s.draws, s.draws + 1, step_noRise (blockNext_reset hr) (by simp) (by simp)⟩

/-- Settles O29: the reset step leaves the block at LL of position 0, whose edge captures. -/
theorem resetStepGivesResetState : Obligations.ResetStepGivesResetState := by
  intro s hr
  obtain ⟨pos, ph, bitc, holdc, latch, sclk, data⟩ := resetValues_stepTo hr
  obtain ⟨esr, eout⟩ := stepTo_reset_chain hr
  exact ⟨_, step_eq s, pos, ph, bitc, holdc, latch, sclk, data, esr, eout,
    fun released => ⟨_, step_eq _, captureStep released ph pos⟩⟩

/-- Settles O31: the reset step keeps EOUT and leaves an LL step of position 0 due, and from any LL step on a position shifts its
whole word in before it commits. -/
theorem firstCommitAfterResetIsClean : Obligations.FirstCommitAfterResetIsClean := by
  refine fun s hr => ⟨_, step_eq s, fun released => ?_⟩
  have reset := resetValues_stepTo hr
  obtain ⟨keeps, -, u, run, -, commits⟩ := positionShiftsItsWordThenCommits _ reset.ph released
  rw [reset.pos, if_pos rfl] at commits
  rw [(stepTo_reset_chain hr).2] at keeps
  exact ⟨keeps, u, run, commits⟩

/-- Settles O51: the main loop has a part in an interval only before a capture and while it runs. -/
theorem scheduleAdvancesOneIntervalPerStep : Obligations.ScheduleAdvancesOneIntervalPerStep := by
  refine fun s => ⟨?eventsOnly, fun empty idle => ?nothing, fun ph pos running => advanceWorld_atFrame running ph pos⟩
  case eventsOnly =>
    rintro (elsewhere | ⟨idle, notStarted⟩)
    · exact advanceWorld_notAtFrame elsewhere
    · exact advanceWorld_notRunning idle notStarted
  case nothing =>
    rw [advanceWorld_notRunning idle (by simp [empty]), empty]
    exact congrArg (fun l => { s with schedule := l }) empty.symm

end Sys2Proof.Proofs
end
